-- ==== Sys2Proof/Word.lean ====
section
/-!
DEFINITION. The core's values (spec/00_scope.md R8, R10, R15): bytes, words of 4 bytes, blocks of 16 bytes
held as the four columns of the column-major matrix, schedules of 11 blocks.
-/

namespace Sys2Proof

/-- R10: an unsigned 8-bit value. Bit 0 is the least significant (R11). -/
abbrev Byte := BitVec 8

/-- R10: a sequence of 4 bytes `[b0, b1, b2, b3]`. No operation reads it as an integer (R46). -/
structure Word where
  b0 : Byte
  b1 : Byte
  b2 : Byte
  b3 : Byte
  deriving DecidableEq, Repr, Inhabited

/-- R10, R15: a sequence of 16 bytes. Column `c` is the word `[s[4c], s[4c+1], s[4c+2], s[4c+3]]`;
it is also group `c` of a round key (R45). -/
structure Block where
  c0 : Word
  c1 : Word
  c2 : Word
  c3 : Word
  deriving DecidableEq, Repr, Inhabited

/-- R10: a sequence of 11 round keys, 176 bytes (R8 `NUM_RK`, `RKS_BYTES`). -/
abbrev Schedule := Vector Block 11

end Sys2Proof
end

