-- ==== Sys2Proof/Syntax.lean ====
section
/-!
DEFINITION. The commands of the core (spec/30_encoding.md R60, R61), what decoding answers (R63), the one
command format CMD8 as its two fields (R60), and the lines of a host script (R66).
-/

namespace Sys2Proof

/-- R61: the three commands, one constructor for each row of the opcode table. No command has an
immediate or register field (R62): the operands come from the ports at the take. -/
inductive Instr where
  /-- R98: expand the 128-bit key on `key_in` into the 11 round keys. -/
  | expandKey
  /-- R119: encrypt the block on `din` under the held schedule. -/
  | encrypt
  /-- R141: decrypt the block on `din` under the held schedule. -/
  | decrypt
  deriving DecidableEq, Repr

/-- R63: what `decode` answers on a command byte. -/
inductive Decoded where
  /-- The byte is one of the three commands. -/
  | command (i : Instr)
  /-- The byte is `RESERVED` (R64). -/
  | reserved
  deriving DecidableEq, Repr

/-- R60: the fields of the one format, CMD8. -/
structure Cmd8 where
  /-- `cmd[1:0]` -/
  op  : BitVec 2
  /-- `cmd[7:2]` -/
  rsv : BitVec 6
  deriving DecidableEq, Repr

/-- R66: one line of a host script. `offer` and `pass` are the model's own (notes/assumptions/8.md). -/
inductive HostLine where
  /-- `ISSUE 0x<hh> [key=<32hex>] [din=<32hex>]`; an absent operand is don't care. The port values are
  packed as R44 says. -/
  | issue (cmd : Byte) (key : Option (BitVec 128)) (din : Option (BitVec 128))
  /-- The host presents a command for one step only and then drops cmd_valid, taken or not (R175). -/
  | offer (cmd : Byte) (key : Option (BitVec 128)) (din : Option (BitVec 128))
  /-- `WAIT`: hold until STATUS.BUSY = 0. -/
  | wait
  /-- `READ STATUS` -/
  | readStatus
  /-- `READ DOUT` -/
  | readDout
  /-- `READ RK <r>`, `r` = 0..10 -/
  | readRk (r : Fin 11)
  /-- `RESET`: rst = 1 for one step. -/
  | reset
  /-- The host presents nothing and reads nothing for one step. -/
  | pass
  deriving DecidableEq, Repr

/-- What a READ line of a host script returned (R48, R66): the port value, and for `READ RK r` the round
key's part of `rk_out`. -/
inductive Reading where
  | status (v : BitVec 8)
  | dout (v : BitVec 128)
  | rk (r : Fin 11) (v : BitVec 128)
  deriving DecidableEq, Repr

/-- R66 `EXPAND_KEY <key32hex>`: Issue with cmd = 0x01, key_in = key, din don't care. -/
def HostLine.expandKey (key : BitVec 128) : HostLine := .issue 0x01#8 (some key) none

/-- R66 `ENCRYPT <block32hex>`: Issue with cmd = 0x02, din = block, key_in don't care. -/
def HostLine.encrypt (block : BitVec 128) : HostLine := .issue 0x02#8 none (some block)

/-- R66 `DECRYPT <block32hex>`: Issue with cmd = 0x03, din = block, key_in don't care. -/
def HostLine.decrypt (block : BitVec 128) : HostLine := .issue 0x03#8 none (some block)

end Sys2Proof
end

