-- ==== Sys2Proof/WellFormed.lean ====
section
/-!
DEFINITION. Which values of the CMD8 fields are a command (spec/30_encoding.md R60, R61, R64). `Instr` itself
has no fields, so every term of it is a command; what can be ill-formed is a byte of the format.
-/

namespace Sys2Proof

/-- R60: `RSV` must be 0b000000. -/
def Cmd8.rsvOk (f : Cmd8) : Bool := f.rsv == 0#6

/-- R60: `OP` = 0b00 is reserved. -/
def Cmd8.opOk (f : Cmd8) : Bool := f.op != 0#2

/-- R60, R64: the fields are those of a command, not of a reserved byte. -/
def Cmd8.wf (f : Cmd8) : Bool := f.rsvOk && f.opOk

end Sys2Proof
end

