-- ==== Sys2Proof/Decode.lean ====
section
/-!
DEFINITION. Decoding a command byte and encoding a command (spec/30_encoding.md R60 to R65). Decoding is total
on all 256 bytes and depends on nothing but the byte (R65).
-/

namespace Sys2Proof

/-- R60: OP is `cmd[1:0]`, RSV is `cmd[7:2]`. -/
def Cmd8.ofByte (c : Byte) : Cmd8 := { op := c.extractLsb' 0 2, rsv := c.extractLsb' 2 6 }

/-- R60: the byte with these fields. -/
def Cmd8.toByte (f : Cmd8) : Byte := f.rsv ++ f.op

/-- R63: a byte with RSV ≠ 0 is reserved; then OP selects the command, and OP = 0b00 is reserved. -/
def decode (c : Byte) : Decoded :=
  let f := Cmd8.ofByte c
  if f.rsv ≠ 0#6 then .reserved
  else if f.op = 0b01#2 then .command .expandKey
  else if f.op = 0b10#2 then .command .encrypt
  else if f.op = 0b11#2 then .command .decrypt
  else .reserved

/-- R60: the OP field of a command. -/
def Instr.op : Instr → BitVec 2
  | .expandKey => 0b01#2
  | .encrypt => 0b10#2
  | .decrypt => 0b11#2

/-- R60, R61: the command byte of a command. -/
def encode (i : Instr) : Byte := Cmd8.toByte { op := i.op, rsv := 0#6 }

/-- The table's word as the command byte: the low `nbits` bits of `w`, every bit above them 0 (a command is
one byte, R60, so bits from 8 on belong to no command). -/
def tableByte (nbits w : Nat) : Byte := BitVec.ofNat 8 (w % 2 ^ nbits)

/-- What the decoder reads from an opcode-table word. -/
def decodeTableWord (nbits w : Nat) : Option Instr :=
  match decode (tableByte nbits w) with
  | .command i => some i
  | .reserved => none

end Sys2Proof
end

