-- ==== Sys2Proof/Config.lean ====
section
/-!
DEFINITION. What the spec leaves open: the free values, and the implementation parameters of
spec/00_scope.md R9. Every one is opaque: nothing can be proved about its value.
-/

namespace Sys2Proof

/-- Free value (notes/assumptions/2.md): the `n`-th block of unspecified bits, held by a register to which the
spec writes ⊥ ("⊥ means the hardware may hold any bits there", R38). -/
opaque Config.freeBlock : Nat → Block

/-- Free value (notes/assumptions/3.md): the `n`-th don't-care value of a 128-bit input port (R66). -/
opaque Config.freePort : Nat → BitVec 128

/-- R9, R181: a latency in clock cycles, a constant of at least 1. -/
structure Config.Latency where
  /-- The cycles after the first. -/
  beyondFirst : Nat
  deriving DecidableEq, Repr, Inhabited

/-- R9: the latency as a number, at least 1. -/
def Config.Latency.cycles (l : Config.Latency) : Nat := l.beyondFirst + 1

/-- R9 `LAT_EXPAND`. No rule depends on it (R181; notes/assumptions/12.md). -/
opaque Config.latExpand : Config.Latency

/-- R9 `LAT_ENCRYPT`. No rule depends on it (R181; notes/assumptions/12.md). -/
opaque Config.latEncrypt : Config.Latency

/-- R9 `LAT_DECRYPT`. No rule depends on it (R181; notes/assumptions/12.md). -/
opaque Config.latDecrypt : Config.Latency

/-- R173: the two legal values of `RESET_KIND`. -/
inductive Config.ResetKind where
  | synchronous
  | asynchronous
  deriving DecidableEq, Repr, Inhabited

/-- R9, R173 `RESET_KIND`. A Reset is one event either way (notes/assumptions/12.md). -/
opaque Config.resetKind : Config.ResetKind

end Sys2Proof
end

