-- ==== Sys2Proof/Machine/State.lean ====
section
/-!
DEFINITION. The machine's state (spec/10_state.md R20, R35, R38), the state after reset, and why a step can stop.
-/

namespace Sys2Proof.Machine

open Sys2Proof

/-- A 16-byte register and its ⊥ mark (R13, R38). `written = false` is the spec's ⊥: "a register holding ⊥
has not been written since reset". The register holds some bits all the same; no rule reads them while the
mark is false. -/
structure BlockReg where
  bits    : Block
  written : Bool
  deriving DecidableEq, Repr

/-- R152: the values of STATUS.ERR. Code 3 is reserved and never produced, so it is no value of the type
(notes/assumptions/10.md). -/
inductive ErrCode where
  /-- 0, OK: the last taken command was started. -/
  | ok
  /-- 1, ERR_RESERVED_CMD: the last taken byte decodes as RESERVED. -/
  | reservedCmd
  /-- 2, ERR_NO_KEY: ENCRYPT or DECRYPT was taken with KEY_VALID = 0. -/
  | noKey
  deriving DecidableEq, Repr

/-- The core's registers (R20), the input ports as the host drives them for the next step (R35), and the host's
side of the model (R66). -/
structure State where
  /-- ST (R23): the working block of the command in flight. -/
  st        : BlockReg
  /-- RKS[0..10] (R24): the round-key schedule. -/
  rks       : Vector BlockReg 11
  /-- DOUT (R25): the result of the last completed block command. -/
  dout      : BlockReg
  /-- OP_L (R26): the command in flight, `none` for NONE. -/
  opL       : Option Instr
  /-- RND (R27): the round counter of the command in flight. -/
  rnd       : BitVec 4
  /-- STATUS.BUSY (R29). -/
  busy      : Bool
  /-- STATUS.KEY_VALID (R30). -/
  keyValid  : Bool
  /-- STATUS.DOUT_VALID (R31). -/
  doutValid : Bool
  /-- STATUS.ERR (R32). -/
  err       : ErrCode
  /-- Port cmd_valid (R35): the host presents a command. -/
  cmdValid  : Bool
  /-- Port cmd (R35): the command byte. -/
  cmd       : Byte
  /-- Port key_in (R35): the key operand, packed as R44. -/
  keyIn     : BitVec 128
  /-- Port din (R35): the block operand, packed as R44. -/
  din       : BitVec 128
  /-- Port rst (R35): the host asserts reset. -/
  rst       : Bool
  /-- The host script's lines still to run (R66), first line first. -/
  script    : List HostLine
  /-- What the script's READ lines returned, oldest first (R66). -/
  reads     : List Reading
  /-- The number of the next free value (notes/assumptions/2.md). -/
  free      : Nat
  deriving DecidableEq, Repr

/-- Why the machine stops with a fault. All are safe: the hardware goes on and the model does not. -/
inductive Fault where
  /-- R157: `READ DOUT` while STATUS.DOUT_VALID = 0. Raised by the script line (Machine/Script.lean). Safe. -/
  | doutNotValid
  /-- R157: `READ RK` while STATUS.KEY_VALID = 0. Raised by the script line (Machine/Script.lean). Safe. -/
  | rkOutNotValid
  /-- R157 (spec/60_exceptions.md; spec/93_implementation_defined.md, "`fault` on any read; no rule reads them"): a rule
  or a port reads a register that holds the spec's ⊥. Raised by the micro-steps and the output ports; no state that meets
  `Inv` (Safety.lean) reaches it. Safe. -/
  | readsBottom
  /-- A command in flight whose RND is outside its range (R27; notes/assumptions/9.md). Raised by the
  micro-steps; no state that meets `Inv` reaches it. Safe. -/
  | illegalRound
  /-- STATUS.BUSY = 1 with OP_L = NONE (R26; notes/assumptions/9.md). Raised by `microStep`; no state that meets
  `Inv` reaches it. Safe. -/
  | noCommandInFlight
  deriving DecidableEq, Repr

/-- Why the machine refuses an instruction. -/
inductive Refusal where
  /-- An instruction of the opcode table without a meaning. Raised by `exec` alone; no arm of it does. Safe. -/
  | notModelled (mnemonic : String)
  deriving DecidableEq, Repr

/-- What a step, a meaning or an event answers. -/
abbrev Result := Host.Outcome State Fault Refusal

/-- The register after reset: ⊥ (R38). Its bits are a DESIGN CHOICE (notes/assumptions/1.md). -/
def BlockReg.afterReset : BlockReg := { bits := default, written := false }

/-- R38: the state after reset. The input ports and the host's side are DESIGN CHOICES
(notes/assumptions/4.md, 5.md). -/
def State.reset : State where
  st        := .afterReset
  rks       := .replicate 11 .afterReset
  dout      := .afterReset
  opL       := none
  rnd       := 0#4
  busy      := false
  keyValid  := false
  doutValid := false
  err       := .ok
  cmdValid  := false
  cmd       := 0#8
  keyIn     := 0#128
  din       := 0#128
  rst       := false
  script    := []
  reads     := []
  free      := 0

end Sys2Proof.Machine
end

