-- ==== Sys2Proof/Machine/Ops.lean ====
section
/-!
DEFINITION. The shared operations on bytes, words and blocks (spec/00_scope.md R12, R15), on the registers
(spec/10_state.md), and the events' shared parts: starting a command (R53), rejecting one (R153), completing
one, and reset (R170).
-/

namespace Sys2Proof

/-- R12: element-wise XOR of two words. -/
def Word.xor (a b : Word) : Word :=
  { b0 := a.b0 ^^^ b.b0, b1 := a.b1 ^^^ b.b1, b2 := a.b2 ^^^ b.b2, b3 := a.b3 ^^^ b.b3 }

/-- The same function on each byte of a word. -/
def Word.map (f : Byte → Byte) (w : Word) : Word := { b0 := f w.b0, b1 := f w.b1, b2 := f w.b2, b3 := f w.b3 }

/-- Byte `r` of a word. -/
def Word.byte (w : Word) : Fin 4 → Byte
  | 0 => w.b0
  | 1 => w.b1
  | 2 => w.b2
  | 3 => w.b3

/-- The word of four bytes. -/
def Word.ofBytes (f : Fin 4 → Byte) : Word := { b0 := f 0, b1 := f 1, b2 := f 2, b3 := f 3 }

/-- R12: element-wise XOR of two blocks. -/
def Block.xor (a b : Block) : Block :=
  { c0 := a.c0.xor b.c0, c1 := a.c1.xor b.c1, c2 := a.c2.xor b.c2, c3 := a.c3.xor b.c3 }

/-- The same function on each column of a block. -/
def Block.mapCols (f : Word → Word) (s : Block) : Block := { c0 := f s.c0, c1 := f s.c1, c2 := f s.c2, c3 := f s.c3 }

/-- The same function on each byte of a block. -/
def Block.map (f : Byte → Byte) (s : Block) : Block := s.mapCols (Word.map f)

/-- Column `c` of a block; group `c` of a round key, `grp(k, c)` (R15, R45). -/
def Block.col (s : Block) : Fin 4 → Word
  | 0 => s.c0
  | 1 => s.c1
  | 2 => s.c2
  | 3 => s.c3

/-- R15: `s[r, c]`, row `r` and column `c`. -/
def Block.elem (s : Block) (r c : Fin 4) : Byte := (s.col c).byte r

/-- The block whose element in row `r` and column `c` is `f r c`. -/
def Block.ofMatrix (f : Fin 4 → Fin 4 → Byte) : Block :=
  { c0 := .ofBytes fun r => f r 0, c1 := .ofBytes fun r => f r 1,
    c2 := .ofBytes fun r => f r 2, c3 := .ofBytes fun r => f r 3 }

/-- R15: byte `i` of a block belongs to row `i % 4`, column `i / 4`. -/
def Block.byte (s : Block) (i : Fin 16) : Byte := s.elem ⟨i.val % 4, by omega⟩ ⟨i.val / 4, by omega⟩

/-- Eleven values, `f 0` to `f 10`. -/
def tabulate11 {α : Type} (f : Fin 11 → α) : Vector α 11 :=
  #v[f 0, f 1, f 2, f 3, f 4, f 5, f 6, f 7, f 8, f 9, f 10]

namespace Machine

/-- A register that holds a value. -/
def BlockReg.hold (b : Block) : BlockReg := { bits := b, written := true }

/-- A register to which ⊥ was written; `b` are the bits the hardware happens to hold (R38). -/
def BlockReg.bottom (b : Block) : BlockReg := { bits := b, written := false }

/-- The value a rule reads: none while the register holds ⊥ (R13). -/
def BlockReg.value (r : BlockReg) : Option Block := if r.written then some r.bits else none

/-- Go on with the value a rule reads; a read of ⊥ is a model fault (R157). -/
def withValue (v : Option Block) (k : Block → Result) : Result :=
  match v with
  | some b => k b
  | none => .fault .readsBottom

/-- `RKS[r]` as a rule reads it. -/
def State.roundKey (s : State) (r : Nat) : Option Block := (s.rks[r]?).bind BlockReg.value

/-- `RKS[r] <- b`. -/
def State.writeRoundKey (s : State) (r : Nat) (b : Block) : State :=
  { s with rks := s.rks.setIfInBounds r (.hold b) }

/-- RKS holding a whole schedule. -/
def holdSchedule (k : Schedule) : Vector BlockReg 11 := tabulate11 fun r => .hold (k.get r)

/-- The schedule RKS holds, if none of its registers holds ⊥. -/
def State.schedule (s : State) : Option Schedule :=
  if ∀ r : Fin 11, (s.rks.get r).written = true then some (tabulate11 fun r => (s.rks.get r).bits) else none

/-- R36: output port `ready`, `BUSY = 0 and rst = 0`. -/
def State.ready (s : State) : Bool := !s.busy && !s.rst

/-- The take is enabled only when ready = 1 (R53). "A command presented while ready = 0 is not taken and has no
effect" (R53, R155; notes/assumptions/11.md). -/
def whenReady (s s' : State) : Result := .next (if s.ready then s' else s)

/-- R153: `raise Error(code)`: the code into STATUS.ERR and nothing else. The one operation that takes an
error. -/
def raiseError (code : ErrCode) (s : State) : State := { s with err := code }

/-- R53: what every started command writes at its take: STATUS.ERR <- 0, STATUS.BUSY <- 1,
OP_L <- the command. -/
def start (i : Instr) (s : State) : State := { s with err := .ok, busy := true, opL := some i }

/-- R119, R141: the take of a block command, `ST <- d`, `STATUS.DOUT_VALID <- 0`, `RND <- r`. -/
def startBlock (i : Instr) (d : Block) (r : BitVec 4) (s : State) : State :=
  { start i s with st := .hold d, doutValid := false, rnd := r }

/-- R98: the take of EXPAND_KEY: `RKS[0] <- k`, `RKS[1..10] <- ⊥`, `STATUS.KEY_VALID <- 0`, `RND <- 1`.
The bits under the ten ⊥ marks are free values (notes/assumptions/2.md). -/
def startExpand (k : Block) (s : State) : State :=
  { start .expandKey s with
    rks := tabulate11 fun r => if r = 0 then .hold k else .bottom (Config.freeBlock (s.free + r.val))
    keyValid := false, rnd := 1#4, free := s.free + 11 }

/-- R99, R120, R142: what every completion writes: STATUS.BUSY <- 0, OP_L <- NONE, RND <- 0. -/
def complete (s : State) : State := { s with busy := false, opL := none, rnd := 0#4 }

/-- R120, R142: the completion of a block command: `DOUT <- ST`, `STATUS.DOUT_VALID <- 1`; `b` is the final ST. -/
def completeBlock (b : Block) (s : State) : State :=
  complete { s with st := .hold b, dout := .hold b, doutValid := true }

/-- A micro-step of a block command that goes on: ST and RND. -/
def nextRound (b : Block) (r : BitVec 4) (s : State) : State := { s with st := .hold b, rnd := r }

/-- R170: the Reset event: every piece of the core's state to its reset value. The host's command ports and
script are not the core's state and stay; the host's rst lasts one step (R66; notes/assumptions/7.md). -/
def resetEvent (s : State) : State :=
  { State.reset with
    cmdValid := s.cmdValid, cmd := s.cmd, keyIn := s.keyIn, din := s.din
    script := s.script, reads := s.reads, free := s.free }

/-- R53: a command transfers once: the host's cmd_valid ends with the take (notes/assumptions/7.md). -/
def consumeCommand (s : State) : State := { s with cmdValid := false }

end Machine

end Sys2Proof
end

