-- ==== Sys2Proof/Machine/Gf.lean ====
section
/-!
DEFINITION. GF(2^8) arithmetic and the substitution tables (spec/40_gf_arithmetic.md R70 to R83). Every function is
pure: it reads no register, sets no flag and raises nothing. XOR (R70) is `^^^`, `Word.xor` and `Block.xor`.
-/

namespace Sys2Proof

/-- R71: multiplication of a byte by 2 in GF(2^8); bit 7 of the operand is shifted out and kept nowhere. -/
def mul2 (a : Byte) : Byte := if a.getLsbD 7 = true then (a <<< 1) ^^^ 0x1B#8 else a <<< 1

/-- R72: the branchless form of `mul2`, with the mask `m` = 0xFF or 0x00. -/
def mul2Branchless (a : Byte) : Byte := (a <<< 1) ^^^ (0x1B#8 &&& (BitVec.ofBool (a.getLsbD 7)).signExtend 8)

/-- `f` applied `n` times (R73 speaks of mul2 composed k times). -/
def iterate (f : Byte → Byte) : Nat → Byte → Byte
  | 0, a => a
  | n + 1, a => iterate f n (f a)

/-- R74: `n` rounds of the loop of `gmul` on `p`, `a`, `b`. -/
def gmulLoop : Nat → Byte → Byte → Byte → Byte
  | 0, p, _, _ => p
  | n + 1, p, a, b => gmulLoop n (if b.getLsbD 0 = true then p ^^^ a else p) (mul2 a) (b >>> 1)

/-- R74, R14: general multiplication `a • b`, for stating coefficients only; the datapath has no such unit. -/
def gmul (a b : Byte) : Byte := gmulLoop 8 0#8 a b

/-- R75 -/
def mul3 (a : Byte) : Byte := mul2 a ^^^ a

/-- R76 -/
def mul4 (a : Byte) : Byte := mul2 (mul2 a)

/-- R76 -/
def mul8 (a : Byte) : Byte := mul2 (mul4 a)

/-- R77 -/
def mul9 (a : Byte) : Byte := mul8 a ^^^ a

/-- R77 -/
def mul11 (a : Byte) : Byte := mul8 a ^^^ mul2 a ^^^ a

/-- R77 -/
def mul13 (a : Byte) : Byte := mul8 a ^^^ mul4 a ^^^ a

/-- R77 -/
def mul14 (a : Byte) : Byte := mul8 a ^^^ mul4 a ^^^ mul2 a

/-- Entry `x` of a table given as in the spec: sixteen rows, the high hex digit of `x` selecting the row and the low
digit the column, column 0 written first. -/
def tableEntry (rows : List (BitVec 128)) (x : Byte) : Byte :=
  (rows.getD (x.toNat / 16) 0#128).extractLsb' (120 - 8 * (x.toNat % 16)) 8

/-- R78: the rows of SBOX, high hex digit 0 to f. -/
def sboxRows : List (BitVec 128) := [
  0x637c777bf26b6fc53001672bfed7ab76#128,
  0xca82c97dfa5947f0add4a2af9ca472c0#128,
  0xb7fd9326363ff7cc34a5e5f171d83115#128,
  0x04c723c31896059a071280e2eb27b275#128,
  0x09832c1a1b6e5aa0523bd6b329e32f84#128,
  0x53d100ed20fcb15b6acbbe394a4c58cf#128,
  0xd0efaafb434d338545f9027f503c9fa8#128,
  0x51a3408f929d38f5bcb6da2110fff3d2#128,
  0xcd0c13ec5f974417c4a77e3d645d1973#128,
  0x60814fdc222a908846eeb814de5e0bdb#128,
  0xe0323a0a4906245cc2d3ac629195e479#128,
  0xe7c8376d8dd54ea96c56f4ea657aae08#128,
  0xba78252e1ca6b4c6e8dd741f4bbd8b8a#128,
  0x703eb5664803f60e613557b986c11d9e#128,
  0xe1f8981169d98e949b1e87e9ce5528df#128,
  0x8ca1890dbfe6426841992d0fb054bb16#128]

/-- R41, R78: the forward S-box. -/
def SBOX (x : Byte) : Byte := tableEntry sboxRows x

/-- R79: the multiplicative inverse under `•`, with 0x00 mapped to 0x00, as the power `x^254`: the product of
`x^(2^k)` for k = 1..7. -/
def gfInverse (x : Byte) : Byte :=
  let x2 := gmul x x
  let x4 := gmul x2 x2
  let x8 := gmul x4 x4
  let x16 := gmul x8 x8
  let x32 := gmul x16 x16
  let x64 := gmul x32 x32
  let x128 := gmul x64 x64
  gmul x128 (gmul x64 (gmul x32 (gmul x16 (gmul x8 (gmul x4 x2)))))

/-- R79: the construction of the S-box, a check on R78's table and not a second definition. -/
def sboxConstruction (x : Byte) : Byte :=
  let b := gfInverse x
  b ^^^ b.rotateLeft 1 ^^^ b.rotateLeft 2 ^^^ b.rotateLeft 3 ^^^ b.rotateLeft 4 ^^^ 0x63#8

/-- R80: the rows of INV_SBOX, high hex digit 0 to f. -/
def invSboxRows : List (BitVec 128) := [
  0x52096ad53036a538bf40a39e81f3d7fb#128,
  0x7ce339829b2fff87348e4344c4dee9cb#128,
  0x547b9432a6c2233dee4c950b42fac34e#128,
  0x082ea16628d924b2765ba2496d8bd125#128,
  0x72f8f66486689816d4a45ccc5d65b692#128,
  0x6c704850fdedb9da5e154657a78d9d84#128,
  0x90d8ab008cbcd30af7e45805b8b34506#128,
  0xd02c1e8fca3f0f02c1afbd0301138a6b#128,
  0x3a9111414f67dcea97f2cfcef0b4e673#128,
  0x96ac7422e7ad3585e2f937e81c75df6e#128,
  0x47f11a711d29c5896fb7620eaa18be1b#128,
  0xfc563e4bc6d279209adbc0fe78cd5af4#128,
  0x1fdda8338807c731b11210592780ec5f#128,
  0x60517fa919b54a0d2de57a9f93c99cef#128,
  0xa0e03b4dae2af5b0c8ebbb3c83539961#128,
  0x172b047eba77d626e169146355210c7d#128]

/-- R42, R80: the inverse S-box. -/
def INV_SBOX (x : Byte) : Byte := tableEntry invSboxRows x

end Sys2Proof
end

