-- ==== Sys2Proof/Machine/Operands.lean ====
section
/-!
DEFINITION. The port packing (spec/20_memory.md R44), the operands of the three commands (spec/30_encoding.md
R62), and the output ports (spec/10_state.md R36) less `status`, which stands in Flags.lean.
-/

namespace Sys2Proof

/-- R44: byte `i` of a 128-bit port, `P[127-8i : 120-8i]`. -/
def portByte (p : BitVec 128) (i : Nat) : Byte := p.extractLsb' (120 - 8 * i) 8

/-- R44: the block a 128-bit port carries; byte `r + 4c` is in row `r`, column `c` (R15). -/
def unpackBlock (p : BitVec 128) : Block := .ofMatrix fun r c => portByte p (r.val + 4 * c.val)

/-- The four bytes of a word, byte 0 most significant. -/
def packWord (w : Word) : BitVec 32 := w.b0 ++ w.b1 ++ w.b2 ++ w.b3

/-- R44: a block on a 128-bit port, byte 0 most significant. -/
def packBlock (b : Block) : BitVec 128 := packWord b.c0 ++ packWord b.c1 ++ packWord b.c2 ++ packWord b.c3

/-- R44: a schedule on the 1408-bit port `rk_out`, byte 0 of round key 0 most significant. -/
def packSchedule (k : Schedule) : BitVec 1408 :=
  packBlock (k.get 0) ++ packBlock (k.get 1) ++ packBlock (k.get 2) ++ packBlock (k.get 3) ++
  packBlock (k.get 4) ++ packBlock (k.get 5) ++ packBlock (k.get 6) ++ packBlock (k.get 7) ++
  packBlock (k.get 8) ++ packBlock (k.get 9) ++ packBlock (k.get 10)

/-- R44, R66: round key `r` of the value on `rk_out`, schedule bytes `16r` to `16r+15`. -/
def rkOutKey (p : BitVec 1408) (r : Fin 11) : BitVec 128 := p.extractLsb' (1280 - 128 * r.val) 128

namespace Machine

/-- R62: EXPAND_KEY's operand, the 16-byte key on `key_in`. -/
def State.keyOperand (s : State) : Block := unpackBlock s.keyIn

/-- R62: the 16-byte block operand of ENCRYPT and DECRYPT on `din`. -/
def State.blockOperand (s : State) : Block := unpackBlock s.din

/-- R36, R48: a read of port `dout`. While STATUS.DOUT_VALID = 0 it is a model fault (R157). -/
def State.doutPort (s : State) : Except Fault (BitVec 128) :=
  if s.doutValid then
    match s.dout.value with
    | some b => .ok (packBlock b)
    | none => .error .readsBottom
  else .error .doutNotValid

/-- R36, R48: a read of port `rk_out`. While STATUS.KEY_VALID = 0 it is a model fault (R157). -/
def State.rkOutPort (s : State) : Except Fault (BitVec 1408) :=
  if s.keyValid then
    match s.schedule with
    | some k => .ok (packSchedule k)
    | none => .error .readsBottom
  else .error .rkOutNotValid

end Machine

end Sys2Proof
end

