-- ==== Sys2Proof/Machine/Encrypt.lean ====
section
/-!
DEFINITION. The encryption datapath and ENCRYPT (spec/42_encrypt.md R110 to R120). A round takes its one round key,
`rks[r]` in the spec's text, as an argument.
-/

namespace Sys2Proof

/-- R110 -/
def subBytes (s : Block) : Block := s.map SBOX

/-- R111: row `r` shifted left by `r`, toward column 0: `s'[r, c] = s[r, (c + r) mod 4]` (`Fin 4` adds mod 4). -/
def shiftRows (s : Block) : Block := .ofMatrix fun r c => s.elem r (c + r)

/-- R112: one column. -/
def mixColumn (w : Word) : Word :=
  let t := w.b0 ^^^ w.b1 ^^^ w.b2 ^^^ w.b3
  { b0 := t ^^^ w.b0 ^^^ mul2 (w.b0 ^^^ w.b1)
    b1 := t ^^^ w.b1 ^^^ mul2 (w.b1 ^^^ w.b2)
    b2 := t ^^^ w.b2 ^^^ mul2 (w.b2 ^^^ w.b3)
    b3 := t ^^^ w.b3 ^^^ mul2 (w.b3 ^^^ w.b0) }

/-- R113: each column by `mixColumn`. -/
def mixColumns (s : Block) : Block := s.mapCols mixColumn

/-- R114: the same operation serves both datapaths. -/
def addRoundKey (s k : Block) : Block := s.xor k

/-- R115: initial whitening, with round key 0. -/
def encRound0 (s k : Block) : Block := addRoundKey s k

/-- R116: a full round, with round key `r`. -/
def encRound (s k : Block) : Block := addRoundKey (mixColumns (shiftRows (subBytes s))) k

/-- R117: the final round, with round key 10 and without MixColumns. -/
def encFinal (s k : Block) : Block := addRoundKey (shiftRows (subBytes s)) k

/-- R118: the whole block transform. -/
def encrypt (rks : Schedule) (p : Block) : Block :=
  let s := encRound0 p (rks.get 0)
  let s := [1, 2, 3, 4, 5, 6, 7, 8, 9].foldl (fun s r => encRound s (rks.get r)) s
  encFinal s (rks.get 10)

namespace Machine

/-- R119: the take of ENCRYPT; rejected with ERR_NO_KEY while STATUS.KEY_VALID = 0 (R152). -/
def execEncrypt (s : State) : Result :=
  whenReady s (if s.keyValid then startBlock .encrypt s.blockOperand 0#4 s else raiseError .noKey s)

/-- R120: a micro-step of ENCRYPT, one round, r = RND in 0..10 counting up. -/
def microEncrypt (s : State) : Result :=
  let r := s.rnd.toNat
  if r ≤ 10 then
    withValue s.st.value fun b =>
      withValue (s.roundKey r) fun k =>
        .next (if r = 0 then nextRound (encRound0 b k) 1#4 s
          else if r ≤ 9 then nextRound (encRound b k) (s.rnd + 1#4) s
          else completeBlock (encFinal b k) s)
  else .fault .illegalRound

end Machine

end Sys2Proof
end

