-- ==== Sys2Proof/Machine/Decrypt.lean ====
section
/-!
DEFINITION. The decryption datapath and DECRYPT (spec/43_decrypt.md R130 to R142). AddRoundKey and MixColumn are
Encrypt.lean's. A round takes its one round key, `rks[r]` in the spec's text, as an argument.
-/

namespace Sys2Proof

/-- R130 -/
def invSubBytes (s : Block) : Block := s.map INV_SBOX

/-- R131: row `r` shifted right by `r`: `s'[r, c] = s[r, (c - r) mod 4]` (`Fin 4` subtracts mod 4). -/
def invShiftRows (s : Block) : Block := .ofMatrix fun r c => s.elem r (c - r)

/-- R132: one column, the circulant matrix with first row [0E 0B 0D 09]. -/
def invMixColumn (w : Word) : Word :=
  { b0 := mul14 w.b0 ^^^ mul11 w.b1 ^^^ mul13 w.b2 ^^^ mul9 w.b3
    b1 := mul9 w.b0 ^^^ mul14 w.b1 ^^^ mul11 w.b2 ^^^ mul13 w.b3
    b2 := mul13 w.b0 ^^^ mul9 w.b1 ^^^ mul14 w.b2 ^^^ mul11 w.b3
    b3 := mul11 w.b0 ^^^ mul13 w.b1 ^^^ mul9 w.b2 ^^^ mul14 w.b3 }

/-- R133: the factored form, an equal realisation of `invMixColumn`. -/
def invMixColumnFactored (w : Word) : Word :=
  let u := mul2 (mul2 (w.b0 ^^^ w.b2))
  let v := mul2 (mul2 (w.b1 ^^^ w.b3))
  mixColumn { b0 := w.b0 ^^^ u, b1 := w.b1 ^^^ v, b2 := w.b2 ^^^ u, b3 := w.b3 ^^^ v }

/-- R134: each column by `invMixColumn`. -/
def invMixColumns (s : Block) : Block := s.mapCols invMixColumn

/-- R135: decryption start, with round key 10. -/
def decStart (s k : Block) : Block := invSubBytes (invShiftRows (addRoundKey s k))

/-- R136: a decryption round, with round key `r`. -/
def decRound (s k : Block) : Block := invSubBytes (invShiftRows (invMixColumns (addRoundKey s k)))

/-- R137: final whitening, with round key 0. -/
def decFinal (s k : Block) : Block := addRoundKey s k

/-- R138: the whole block transform. -/
def decrypt (rks : Schedule) (c : Block) : Block :=
  let s := decStart c (rks.get 10)
  let s := [9, 8, 7, 6, 5, 4, 3, 2, 1].foldl (fun s r => decRound s (rks.get r)) s
  decFinal s (rks.get 0)

namespace Machine

/-- R141: the take of DECRYPT; rejected with ERR_NO_KEY while STATUS.KEY_VALID = 0 (R152). -/
def execDecrypt (s : State) : Result :=
  whenReady s (if s.keyValid then startBlock .decrypt s.blockOperand 10#4 s else raiseError .noKey s)

/-- R142: a micro-step of DECRYPT, r = RND in 0..10 counting down and naming the round key the step uses. -/
def microDecrypt (s : State) : Result :=
  let r := s.rnd.toNat
  if r ≤ 10 then
    withValue s.st.value fun b =>
      withValue (s.roundKey r) fun k =>
        .next (if r = 10 then nextRound (decStart b k) 9#4 s
          else if 1 ≤ r then nextRound (decRound b k) (s.rnd - 1#4) s
          else completeBlock (decFinal b k) s)
  else .fault .illegalRound

end Machine

end Sys2Proof
end

