-- ==== Sys2Proof/Machine/KeySchedule.lean ====
section
/-!
DEFINITION. The key schedule and EXPAND_KEY (spec/41_key_schedule.md R90 to R99).
-/

namespace Sys2Proof

/-- R90: the round constants RC[0] to RC[9]. -/
def rcTable : List Byte := [0x01#8, 0x02#8, 0x04#8, 0x08#8, 0x10#8, 0x20#8, 0x40#8, 0x80#8, 0x1B#8, 0x36#8]

/-- R43: `RC[i]`, i = 0..9. No rule forms an index outside that range. -/
def RC (i : Nat) : Byte := rcTable.getD i 0#8

/-- R92: rotate left by one byte, byte 0 to index 3. -/
def rotWord (w : Word) : Word := { b0 := w.b1, b1 := w.b2, b2 := w.b3, b3 := w.b0 }

/-- R93 -/
def subWord (w : Word) : Word := w.map SBOX

/-- R94: `KeyCore(w, r)`, r = 1..10; only byte 0 receives the constant. -/
def keyCore (w : Word) (r : Nat) : Word :=
  let t := subWord (rotWord w)
  { t with b0 := t.b0 ^^^ RC (r - 1) }

/-- R95: round key `r` from round key `r-1`, each group from the group just computed. -/
def keyRound (prev : Block) (r : Nat) : Block :=
  let g0 := (keyCore prev.c3 r).xor prev.c0
  let g1 := g0.xor prev.c1
  let g2 := g1.xor prev.c2
  let g3 := g2.xor prev.c3
  { c0 := g0, c1 := g1, c2 := g2, c3 := g3 }

/-- R96: round key `r` of the schedule of `key`. -/
def roundKeyOf (key : Block) : Nat → Block
  | 0 => key
  | r + 1 => keyRound (roundKeyOf key r) (r + 1)

/-- R96: the 11 round keys. -/
def expandKey (key : Block) : Schedule := tabulate11 fun r => roundKeyOf key r.val

namespace Machine

/-- R98: the take of EXPAND_KEY. It is never rejected. -/
def execExpandKey (s : State) : Result := whenReady s (startExpand s.keyOperand s)

/-- R99: the completion of EXPAND_KEY. -/
def completeExpand (s : State) : State := complete { s with keyValid := true }

/-- R99: a micro-step of EXPAND_KEY: `RKS[r] <- KeyRound(RKS[r-1], r)` with r = RND in 1..10. -/
def microExpandKey (s : State) : Result :=
  let r := s.rnd.toNat
  if 1 ≤ r ∧ r ≤ 10 then
    withValue (s.roundKey (r - 1)) fun prev =>
      let s' := s.writeRoundKey r (keyRound prev r)
      .next (if r = 10 then completeExpand s' else { s' with rnd := s.rnd + 1#4 })
  else .fault .illegalRound

end Machine

end Sys2Proof
end

