-- ==== Sys2Proof/Machine/Flags.lean ====
section
/-!
DEFINITION. The STATUS register as the port `status` shows it (spec/10_state.md R28, R33; spec/60_exceptions.md
R152). The core has no other flags (R34): no datapath operation computes one.
-/

namespace Sys2Proof.Machine

open Sys2Proof

/-- R152: the two bits of STATUS.ERR. -/
def ErrCode.code : ErrCode → BitVec 2
  | .ok => 0#2
  | .reservedCmd => 1#2
  | .noKey => 2#2

/-- One status bit as a byte. -/
def bitByte (b : Bool) : BitVec 8 := (BitVec.ofBool b).setWidth 8

/-- R28: `status = BUSY | (KEY_VALID << 1) | (DOUT_VALID << 2) | (ERR << 3)`; bits 7:5 are 0 (R33). -/
def State.statusPort (s : State) : BitVec 8 :=
  bitByte s.busy ||| (bitByte s.keyValid <<< 1) ||| (bitByte s.doutValid <<< 2) ||| (s.err.code.setWidth 8 <<< 3)

end Sys2Proof.Machine
end

