-- ==== Sys2Proof/Machine/Events.lean ====
section
/-!
DEFINITION. The core's events (spec/20_memory.md R52): Issue (R53) and MicroStep (R99, R120, R142). Reset is
`resetEvent` of Ops.lean.
-/

namespace Sys2Proof.Machine

open Sys2Proof

/-- R53: the take of the presented byte, when ready = 1; otherwise it is held. A reserved byte is rejected with
ERR_RESERVED_CMD (R64). The host's cmd_valid ends with the take. -/
def issueEvent (s : State) : Result :=
  if s.ready then
    match decode s.cmd with
    | .command i => exec i (consumeCommand s)
    | .reserved => .next (raiseError .reservedCmd (consumeCommand s))
  else .next s

/-- R52: one round of the command in flight. -/
def microStep (s : State) : Result :=
  match s.opL with
  | some .expandKey => microExpandKey s
  | some .encrypt => microEncrypt s
  | some .decrypt => microDecrypt s
  | none => .fault .noCommandInFlight

/-- R52: the event that is enabled when rst = 0: MicroStep while BUSY = 1, else Issue if a command is presented, else
none: the core holds its state (R165, R171; notes/assumptions/6.md). -/
def coreEvent (s : State) : Result :=
  if s.busy then microStep s
  else if s.cmdValid then issueEvent s
  else .next s

/-- `n` micro-steps, stopping at the first fault. -/
def microSteps : Nat → State → Result
  | 0, s => .next s
  | n + 1, s =>
    match microStep s with
    | .next s' => microSteps n s'
    | .fault f => .fault f
    | .refused r => .refused r

/-- R180: how many micro-steps a started command takes. -/
def microStepCount : Instr → Nat
  | .expandKey => 10
  | .encrypt => 11
  | .decrypt => 11

end Sys2Proof.Machine
end

