-- ==== Sys2Proof/Machine/Script.lean ====
section
/-!
DEFINITION. The host's side of a step: the lines of a host script (spec/30_encoding.md R66), and which event a step
performs (spec/20_memory.md R52).
-/

namespace Sys2Proof.Machine

open Sys2Proof

/-- R66: a command line drives the command port. An absent operand is don't care: a free value
(notes/assumptions/3.md). -/
def presentCommand (c : Byte) (key din : Option (BitVec 128)) (s : State) : State :=
  { s with
    cmdValid := true, cmd := c
    keyIn := key.getD (Config.freePort s.free), din := din.getD (Config.freePort (s.free + 1))
    free := s.free + 2 }

/-- R48: a read is recorded and changes nothing in the core. -/
def recordRead (v : Reading) (s : State) : State := { s with reads := s.reads ++ [v] }

/-- One line of the script, `s` being the state with that line taken off. R66: "the core takes MicroSteps only during a
WAIT and while a command line is held". A host that drops cmd_valid before ready = 1 has issued nothing (R175): `offer`. -/
def runLine (line : HostLine) (s : State) : Result :=
  match line with
  | .issue c key din => coreEvent (presentCommand c key din s)
  | .offer c key din =>
    if s.busy then coreEvent (consumeCommand (presentCommand c key din s)) else coreEvent (presentCommand c key din s)
  | .wait => if s.busy then coreEvent { s with script := .wait :: s.script } else .next s
  | .pass => coreEvent s
  | .readStatus => .next (recordRead (.status s.statusPort) s)
  | .readDout =>
    match s.doutPort with
    | .ok v => .next (recordRead (.dout v) s)
    | .error f => .fault f
  | .readRk r =>
    match s.rkOutPort with
    | .ok v => .next (recordRead (.rk r (rkOutKey v r)) s)
    | .error f => .fault f
  | .reset => .next (resetEvent s)

/-- Which event the step performs. rst = 1 wins over everything (R155, R171); a presented command is held until it is
taken (R53), and the host reads no further line while it is; then the script's next line; without one, the core's own
event. -/
def hostStep (s : State) : Result :=
  if s.rst then .next (resetEvent s)
  else if s.cmdValid then coreEvent s
  else
    match s.script with
    | [] => coreEvent s
    | line :: rest => runLine line { s with script := rest }

/-- The core idle with the byte `c` presented on its command port: rst = 0, BUSY = 0, OP_L = NONE, RND = 0,
cmd_valid = 1. -/
def presentTo (c : Byte) (s : State) : State :=
  { s with rst := false, busy := false, opL := none, rnd := 0#4, cmdValid := true, cmd := c }

end Sys2Proof.Machine
end

