-- ==== Sys2Proof/Machine/Step.lean ====
section
/-!
DEFINITION. One step of the machine, and presenting a command so that the next step takes it.
-/

namespace Sys2Proof.Machine

open Sys2Proof

/-- One step: at most one event (spec/20_memory.md R52). -/
def step (s : State) : Host.Outcome State Fault Refusal := hostStep s

/-- `s` with the opcode-table word presented on the command port of the idle core, so that the very next step takes it
(notes/assumptions/15.md). -/
def State.withFetchWord (s : State) (nbits w : Nat) : State := presentTo (tableByte nbits w) s

end Sys2Proof.Machine
end

