-- ==== Sys2Proof/Safety.lean ====
section
/-!
DEFINITION. The invariant that every state reached from reset meets, and what is left of the command in flight.
-/

namespace Sys2Proof.Machine

open Sys2Proof

/-- RND is within its range for the command in flight: 0 when none is (R26, R27), 1..10 during EXPAND_KEY (R99), 0..10
during ENCRYPT and DECRYPT (R120, R142). -/
def State.RoundInRange (s : State) : Prop :=
  match s.opL with
  | none => s.rnd = 0#4
  | some .expandKey => 1 ≤ s.rnd.toNat ∧ s.rnd.toNat ≤ 10
  | some .encrypt => s.rnd.toNat ≤ 10
  | some .decrypt => s.rnd.toNat ≤ 10

/-- A block command is in flight. -/
def State.BlockInFlight (s : State) : Prop := s.opL = some .encrypt ∨ s.opL = some .decrypt

/-- What the spec's rules keep true of the core's registers. -/
structure Inv (s : State) : Prop where
  /-- R26: OP_L holds NONE exactly when STATUS.BUSY = 0. -/
  busy_iff : s.busy = true ↔ s.opL ≠ none
  /-- R27: RND takes only values 0..10, within its command's range. -/
  round : s.RoundInRange
  /-- R30: while STATUS.KEY_VALID = 1, RKS holds a complete schedule: the expansion (R96) of some key. -/
  key : s.keyValid = true → ∃ k, s.rks = holdSchedule (expandKey k)
  /-- R99, R178: during EXPAND_KEY, STATUS.KEY_VALID = 0 and RKS[0] to RKS[RND-1] hold the first round keys of one
  key. -/
  expanding : s.opL = some .expandKey →
    s.keyValid = false ∧ ∃ k, ∀ r, r < s.rnd.toNat → s.roundKey r = some (roundKeyOf k r)
  /-- R119, R141, R177: during ENCRYPT and DECRYPT, STATUS.KEY_VALID = 1, STATUS.DOUT_VALID = 0 and ST holds a block. -/
  block : s.BlockInFlight → s.keyValid = true ∧ s.doutValid = false ∧ s.st.written = true
  /-- R31: while STATUS.DOUT_VALID = 1, DOUT holds a result. -/
  result : s.doutValid = true → s.dout.written = true

/-- R180: the micro-steps left until the command in flight completes. -/
def remaining (s : State) : Nat :=
  match s.opL with
  | none => 0
  | some .expandKey => 11 - s.rnd.toNat
  | some .encrypt => 11 - s.rnd.toNat
  | some .decrypt => s.rnd.toNat + 1

/-- The core's registers (R20) are the same in both states; the input ports, the host's side and the counter of free
values may differ. -/
structure SameRegisters (s t : State) : Prop where
  st        : t.st = s.st
  rks       : t.rks = s.rks
  dout      : t.dout = s.dout
  opL       : t.opL = s.opL
  rnd       : t.rnd = s.rnd
  busy      : t.busy = s.busy
  keyValid  : t.keyValid = s.keyValid
  doutValid : t.doutValid = s.doutValid
  err       : t.err = s.err

/-- The host's side is the same in both states: the command ports, the script and what it has read. -/
structure SameHost (s t : State) : Prop where
  cmdValid : t.cmdValid = s.cmdValid
  cmd      : t.cmd = s.cmd
  keyIn    : t.keyIn = s.keyIn
  din      : t.din = s.din
  script   : t.script = s.script
  reads    : t.reads = s.reads

/-- The next step is a Reset event (R170): the port rst is 1, or the script's next line is RESET. -/
def ResetsNext (s : State) : Prop := s.rst = true ∨ (s.cmdValid = false ∧ s.script.head? = some .reset)

/-- R53: the command byte presented to the core in the next step: the one on port cmd while cmd_valid = 1, else that of
the script's next line if it is a command line. -/
def presented (s : State) : Option Byte :=
  if s.cmdValid then some s.cmd
  else match s.script with
    | .issue c _ _ :: _ => some c
    | .offer c _ _ :: _ => some c
    | _ => none

/-- The command line `c`, `k`, `d` stands presented on the ports, an absent operand at any value (R66), and `rest` is left of
the script. -/
structure PresentedWith (c : Byte) (k d : Option (BitVec 128)) (rest : List HostLine) (s : State) : Prop where
  cmdValid : s.cmdValid = true
  cmd      : s.cmd = c
  keyIn    : ∀ v, k = some v → s.keyIn = v
  din      : ∀ v, d = some v → s.din = v
  script   : s.script = rest

/-- The next step is the take of the byte `c` (R53): it is presented, BUSY = 0 and rst = 0. -/
def TakesNext (s : State) (c : Byte) : Prop := s.rst = false ∧ s.busy = false ∧ presented s = some c

/-- R152: the code a take of the byte `c` records in STATUS.ERR. -/
def takeOutcome (s : State) (c : Byte) : ErrCode :=
  match decode c with
  | .reserved => .reservedCmd
  | .command .expandKey => .ok
  | .command .encrypt => if s.keyValid then .ok else .noKey
  | .command .decrypt => if s.keyValid then .ok else .noKey

/-- The next step lets the core run on its own: no reset, no presented command, no script line. -/
def Undisturbed (s : State) : Prop := s.rst = false ∧ s.cmdValid = false ∧ s.script = []

/-- The next step is a host's READ DOUT line. -/
def ReadsDoutNext (s : State) : Prop := s.rst = false ∧ s.cmdValid = false ∧ s.script.head? = some .readDout

/-- The next step is a host's READ RK line. -/
def ReadsRkNext (s : State) : Prop :=
  s.rst = false ∧ s.cmdValid = false ∧ ∃ r, s.script.head? = some (.readRk r)

end Sys2Proof.Machine
end

