-- ==== Sys2Proof/Certificates/Slice0/Obligations.lean ====
section
/-!
DEFINITION. The statements about the AES-128 core, for the provers. Rule numbers R<n> are those of spec/.
-/

open Sys2Proof Sys2Proof.Machine

/-! Commands and their bytes. -/

/-- R61: the map of the 256 command bytes, with each command's match and mask. -/
def Obligations.CommandBytesFollowOpcodeMap : Prop :=
  (∀ c : Byte, c &&& 0xFF#8 = 0x01#8 ↔ decode c = .command .expandKey) ∧
  (∀ c : Byte, c &&& 0xFF#8 = 0x02#8 ↔ decode c = .command .encrypt) ∧
  (∀ c : Byte, c &&& 0xFF#8 = 0x03#8 ↔ decode c = .command .decrypt) ∧
  (∀ c : Byte, c = 0x00#8 ∨ 4 ≤ c.toNat ↔ decode c = .reserved)

/-- R60, R63: decoding an encoded command gives it back, a byte that decodes to a command is its encoding, and the
table's words decode to their rows' commands. -/
def Obligations.DecodeAndEncodeAgree : Prop :=
  (∀ i : Instr, decode (encode i) = .command i) ∧
  (∀ (c : Byte) (i : Instr), decode c = .command i → c = encode i) ∧
  decodeTableWord 8 0b00000001 = some .expandKey ∧ decodeTableWord 8 0b00000010 = some .encrypt ∧
  decodeTableWord 8 0b00000011 = some .decrypt

/-! Taking a command. -/

/-- R52, R53: a step of an idle core with a command presented on its port, or by the script's next line, is `exec` of the
decoded command; the step around it ends the host's cmd_valid (the model's choice, notes/assumptions/7.md). The state
that `withFetchWord` builds is such a state. -/
def Obligations.StepRunsDecodedCommand : Prop :=
  (∀ (s : State) (i : Instr), s.rst = false → s.busy = false → s.cmdValid = true → decode s.cmd = .command i →
    step s = exec i (consumeCommand s)) ∧
  (∀ (s : State) (i : Instr) (c : Byte) (k d : Option (BitVec 128)) (rest : List HostLine),
    s.rst = false → s.busy = false → s.cmdValid = false → s.script = .issue c k d :: rest → decode c = .command i →
    step s = exec i (consumeCommand (presentCommand c k d { s with script := rest }))) ∧
  (∀ (s : State) (i : Instr) (c : Byte) (k d : Option (BitVec 128)) (rest : List HostLine),
    s.rst = false → s.busy = false → s.cmdValid = false → s.script = .offer c k d :: rest → decode c = .command i →
    step s = exec i (consumeCommand (presentCommand c k d { s with script := rest }))) ∧
  (∀ (s : State) (i : Instr),
    step (s.withFetchWord 8 (encode i).toNat) = exec i (consumeCommand (presentTo (encode i) s)))

/-- R64: the reserved bytes, and what the take of one does, from the port or from a script's line: ERR = 1 and no other
register changes. -/
def Obligations.ReservedCommandRejected : Prop :=
  (∀ c : Byte, decode c = .reserved ↔ c = 0x00#8 ∨ 4 ≤ c.toNat) ∧
  ∀ (s : State) (c : Byte), TakesNext s c → (c = 0x00#8 ∨ 4 ≤ c.toNat) →
    ∃ t, step s = .next t ∧ SameRegisters { s with err := .reservedCmd } t ∧ t.err.code = 1#2

/-- R153: a rejection writes its code to STATUS.ERR and nothing else, the command is consumed, and the core is ready for
the next one at once. That consuming it ends the host's cmd_valid is the model's choice (notes/assumptions/7.md), and so is
that a command line of the script is taken off with its take (notes/assumptions/5.md). -/
def Obligations.RejectionWritesErrAlone : Prop :=
  ∀ (s : State) (c : Byte) (code : ErrCode), TakesNext s c →
    (decode c = .reserved ∧ code = .reservedCmd ∨
      (decode c = .command .encrypt ∨ decode c = .command .decrypt) ∧ s.keyValid = false ∧ code = .noKey) →
    ∃ t, step s = .next t ∧ SameRegisters { s with err := code } t ∧ t.cmdValid = false ∧ t.ready = true ∧
      t.script = if s.cmdValid then s.script else s.script.tail

/-- R152: ENCRYPT and DECRYPT taken with STATUS.KEY_VALID = 0 record ERR_NO_KEY, code 2, and change nothing else. -/
def Obligations.BlockCommandNeedsKey : Prop :=
  ∀ s : State, s.ready = true → s.keyValid = false →
    exec .encrypt s = .next { s with err := .noKey } ∧ exec .decrypt s = .next { s with err := .noKey } ∧
    ErrCode.noKey.code = 2#2

/-- R53, R155: a command presented while ready = 0 is not taken and has no effect. That `exec` answers the unchanged state
there is the model's choice of form (notes/assumptions/11.md). -/
def Obligations.CommandNotTakenUnlessReady : Prop :=
  ∀ (i : Instr) (s : State), s.ready = false → exec i s = .next s

/-- R98: the take of EXPAND_KEY. It is never rejected. Everything but the named registers is unchanged; the counter of free
values is the model's own (notes/assumptions/2.md). -/
def Obligations.ExpandKeyTake : Prop :=
  ∀ s : State, s.ready = true → ∃ t, exec .expandKey s = .next t ∧
    t.rks.get 0 = .hold (unpackBlock s.keyIn) ∧ (∀ r : Fin 11, r ≠ 0 → (t.rks.get r).written = false) ∧
    t = { s with err := .ok, busy := true, opL := some .expandKey, keyValid := false, rnd := 1#4,
                 rks := t.rks, free := t.free }

/-- R119: the take of ENCRYPT with a valid key. Everything but the named registers is unchanged. -/
def Obligations.EncryptTake : Prop :=
  ∀ s : State, s.ready = true → s.keyValid = true →
    exec .encrypt s = .next { s with err := .ok, busy := true, opL := some .encrypt,
                                     st := .hold (unpackBlock s.din), doutValid := false, rnd := 0#4 }

/-- R141: the take of DECRYPT with a valid key. Everything but the named registers is unchanged. -/
def Obligations.DecryptTake : Prop :=
  ∀ s : State, s.ready = true → s.keyValid = true →
    exec .decrypt s = .next { s with err := .ok, busy := true, opL := some .decrypt,
                                     st := .hold (unpackBlock s.din), doutValid := false, rnd := 10#4 }

/-! Micro-steps. -/

/-- R99: a micro-step of EXPAND_KEY, with r = RND. It reads RKS[r-1], which holds a value. -/
def Obligations.ExpandKeyMicroStep : Prop :=
  ∀ s : State, Inv s → s.opL = some .expandKey →
    ∃ prev t, s.roundKey (s.rnd.toNat - 1) = some prev ∧ microStep s = .next t ∧
      t.roundKey s.rnd.toNat = some (keyRound prev s.rnd.toNat) ∧
      (∀ r, r ≠ s.rnd.toNat → t.roundKey r = s.roundKey r) ∧
      (s.rnd.toNat < 10 → t.rnd.toNat = s.rnd.toNat + 1 ∧ t = { s with rks := t.rks, rnd := t.rnd }) ∧
      (s.rnd.toNat = 10 →
        t = { s with rks := t.rks, keyValid := true, busy := false, opL := none, rnd := 0#4 })

/-- R120: a micro-step of ENCRYPT, with r = RND. It reads ST and RKS[r], which hold values, and writes RKS never. -/
def Obligations.EncryptMicroStep : Prop :=
  ∀ s : State, Inv s → s.opL = some .encrypt →
    ∃ b k t, s.st = .hold b ∧ s.roundKey s.rnd.toNat = some k ∧ microStep s = .next t ∧
      (s.rnd.toNat = 0 → t = { s with st := .hold (encRound0 b k), rnd := 1#4 }) ∧
      (1 ≤ s.rnd.toNat ∧ s.rnd.toNat ≤ 9 →
        t.rnd.toNat = s.rnd.toNat + 1 ∧ t = { s with st := .hold (encRound b k), rnd := t.rnd }) ∧
      (s.rnd.toNat = 10 →
        t = { s with st := .hold (encFinal b k), dout := .hold (encFinal b k), doutValid := true, busy := false,
                     opL := none, rnd := 0#4 })

/-- R142: a micro-step of DECRYPT, with r = RND. It reads ST and RKS[r], which hold values, and writes RKS never. -/
def Obligations.DecryptMicroStep : Prop :=
  ∀ s : State, Inv s → s.opL = some .decrypt →
    ∃ b k t, s.st = .hold b ∧ s.roundKey s.rnd.toNat = some k ∧ microStep s = .next t ∧
      (s.rnd.toNat = 10 → t = { s with st := .hold (decStart b k), rnd := 9#4 }) ∧
      (1 ≤ s.rnd.toNat ∧ s.rnd.toNat ≤ 9 →
        t.rnd.toNat + 1 = s.rnd.toNat ∧ t = { s with st := .hold (decRound b k), rnd := t.rnd }) ∧
      (s.rnd.toNat = 0 →
        t = { s with st := .hold (decFinal b k), dout := .hold (decFinal b k), doutValid := true, busy := false,
                     opL := none, rnd := 0#4 })

/-! Whole commands. -/

/-- R98, R182: EXPAND_KEY is taken, its 10 micro-steps complete it, no earlier one does, and at completion RKS is the
expansion of the key and STATUS.KEY_VALID = 1. DOUT and STATUS.DOUT_VALID keep what they held. -/
def Obligations.ExpandKeyRunsToCompletion : Prop :=
  ∀ s : State, s.ready = true → ∃ t u, exec .expandKey s = .next t ∧ t.busy = true ∧
    (∀ n, n < 10 → ∃ v, microSteps n t = .next v ∧ v.busy = true ∧ v.keyValid = false) ∧
    microSteps 10 t = .next u ∧
    u = { s with rks := holdSchedule (expandKey (unpackBlock s.keyIn)), keyValid := true, err := .ok, busy := false,
                 opL := none, rnd := 0#4, free := u.free }

/-- R119, R182: ENCRYPT with a valid key is taken, its 11 micro-steps complete it, no earlier one does, and at completion
DOUT = Encrypt(RKS, din) and STATUS.DOUT_VALID = 1. RKS and STATUS.KEY_VALID keep what they held. -/
def Obligations.EncryptRunsToCompletion : Prop :=
  ∀ (s : State) (k : Schedule), s.ready = true → s.keyValid = true → s.rks = holdSchedule k →
    ∃ t u, exec .encrypt s = .next t ∧ t.busy = true ∧
      (∀ n, n < 11 → ∃ v, microSteps n t = .next v ∧ v.busy = true ∧ v.doutValid = false) ∧
      microSteps 11 t = .next u ∧
      u = { s with st := .hold (encrypt k (unpackBlock s.din)), dout := .hold (encrypt k (unpackBlock s.din)),
                   doutValid := true, err := .ok, busy := false, opL := none, rnd := 0#4 }

/-- R141, R182: DECRYPT with a valid key is taken, its 11 micro-steps complete it, no earlier one does, and at completion
DOUT = Decrypt(RKS, din) and STATUS.DOUT_VALID = 1. RKS and STATUS.KEY_VALID keep what they held. -/
def Obligations.DecryptRunsToCompletion : Prop :=
  ∀ (s : State) (k : Schedule), s.ready = true → s.keyValid = true → s.rks = holdSchedule k →
    ∃ t u, exec .decrypt s = .next t ∧ t.busy = true ∧
      (∀ n, n < 11 → ∃ v, microSteps n t = .next v ∧ v.busy = true ∧ v.doutValid = false) ∧
      microSteps 11 t = .next u ∧
      u = { s with st := .hold (decrypt k (unpackBlock s.din)), dout := .hold (decrypt k (unpackBlock s.din)),
                   doutValid := true, err := .ok, busy := false, opL := none, rnd := 0#4 }

/-- R139 through the machine: encrypt the block on din, present what port dout then shows on din, decrypt: port dout shows
the first block again. -/
def Obligations.BlockRoundTripThroughPorts : Prop :=
  ∀ s : State, Inv s → s.ready = true → s.keyValid = true →
    ∃ t u c, exec .encrypt s = .next t ∧ microSteps 11 t = .next u ∧ u.doutPort = .ok c ∧
      ∃ t' u', exec .decrypt { u with din := c } = .next t' ∧ microSteps 11 t' = .next u' ∧ u'.doutPort = .ok s.din

/-- R139: decryption inverts encryption under every schedule, that of an expanded key among them, and the reverse. -/
def Obligations.DecryptInvertsEncrypt : Prop :=
  (∀ K P : Block, decrypt (expandKey K) (encrypt (expandKey K) P) = P) ∧
  (∀ (rks : Schedule) (p : Block), decrypt rks (encrypt rks p) = p) ∧
  (∀ (rks : Schedule) (c : Block), encrypt rks (decrypt rks c) = c)

/-! Running without disturbance. -/

/-- R180, R182: a take fixes the number of micro-steps by the command alone; each undisturbed step of the machine uses up one
of them, and STATUS.BUSY falls exactly when none is left. -/
def Obligations.StartedCommandCompletesInItsCount : Prop :=
  (∀ (i : Instr) (s : State), s.ready = true → (i = .expandKey ∨ s.keyValid = true) →
    ∃ t, exec i s = .next t ∧ t.busy = true ∧ remaining t = microStepCount i) ∧
  (∀ (s : State) (n : Nat), Inv s → s.busy = true → Undisturbed s → n ≤ remaining s →
    ∃ t, Host.Core.run core n s = .next t ∧ n + remaining t = remaining s ∧ (t.busy = false ↔ n = remaining s))

/-- R52: the steps of an undisturbed machine are the micro-steps of the command in flight, and an undisturbed idle machine
keeps its state. -/
def Obligations.UndisturbedStepsAreMicroSteps : Prop :=
  (∀ (s : State) (n : Nat), Inv s → Undisturbed s → n ≤ remaining s → Host.Core.run core n s = microSteps n s) ∧
  (∀ (s : State) (n : Nat), Undisturbed s → s.busy = false → Host.Core.run core n s = .next s)

/-- R175, R66: a command presented while STATUS.BUSY = 1 is held, neither lost nor overlapping the command in flight: that
completes, the presented byte and operands are still there, and the next step is their take. A script's command line that
meets a busy core is such a command: its step is the micro-step, and it leaves the byte and the given operands presented. -/
def Obligations.CommandHeldWhileBusy : Prop :=
  (∀ s : State, Inv s → s.busy = true → s.rst = false → s.cmdValid = true →
    ∃ t, Host.Core.run core (remaining s) s = .next t ∧ t.busy = false ∧ SameHost s t ∧ t.err = s.err ∧
      step t = issueEvent t ∧ TakesNext t s.cmd) ∧
  (∀ (s : State) (c : Byte) (k d : Option (BitVec 128)) (rest : List HostLine), Inv s → s.busy = true → s.rst = false →
    s.cmdValid = false → s.script = .issue c k d :: rest →
    (∃ t t', step s = .next t ∧ microStep s = .next t' ∧ SameRegisters t' t ∧ PresentedWith c k d rest t) ∧
    ∃ t, Host.Core.run core (remaining s) s = .next t ∧ t.busy = false ∧ PresentedWith c k d rest t ∧ t.err = s.err ∧
      step t = issueEvent t ∧ TakesNext t c)

/-- R175: a host that drops cmd_valid before ready = 1 has issued nothing: an offer to a busy core leaves no command
presented, and the step is the micro-step it would have been without the offer. -/
def Obligations.DroppedCommandIssuesNothing : Prop :=
  ∀ (s : State) (c : Byte) (k d : Option (BitVec 128)) (rest : List HostLine), Inv s → s.rst = false → s.busy = true →
    s.cmdValid = false → s.script = .offer c k d :: rest →
    ∃ t t', step s = .next t ∧ microStep s = .next t' ∧ SameRegisters t' t ∧ t.cmdValid = false ∧ t.script = rest

/-- R66: WAIT holds until STATUS.BUSY = 0: each step is a micro-step of the command in flight, and when that has completed
the line is done. The step that ends it performs no event, which is the model's choice of form (notes/assumptions/6.md). -/
def Obligations.WaitRunsCommandToCompletion : Prop :=
  ∀ (s : State) (rest : List HostLine), Inv s → s.rst = false → s.cmdValid = false → s.script = .wait :: rest →
    (s.busy = true → ∃ t, Host.Core.run core (remaining s) s = .next t ∧ microSteps (remaining s) s = .next t ∧
      t.busy = false ∧ t.script = s.script ∧ step t = .next { t with script := rest }) ∧
    (s.busy = false → step s = .next { s with script := rest })

/-! Reset. -/

/-- R38: the registers of the state after reset. The bits under the ⊥ marks, the ports and the host's side are the model's
choices (notes/assumptions/1.md, 4.md, 5.md) and nothing is said of them. -/
def Obligations.ResetStateHoldsResetValues : Prop :=
  State.reset.busy = false ∧ State.reset.keyValid = false ∧ State.reset.doutValid = false ∧ State.reset.err = .ok ∧
  State.reset.statusPort = 0x00#8 ∧ State.reset.opL = none ∧ State.reset.rnd = 0#4 ∧
  State.reset.st.written = false ∧ State.reset.dout.written = false ∧
  ∀ r : Fin 11, (State.reset.rks.get r).written = false

/-- R170: while rst = 1 the step is a Reset event, whatever the state: STATUS = 0x00, OP_L = NONE, RND = 0, and ST, RKS and
DOUT hold ⊥, so a command in flight is abandoned with no result. The script's RESET line is such an event. -/
def Obligations.ResetEventClearsCore : Prop :=
  ∀ s : State, ResetsNext s →
    ∃ t, step s = .next t ∧ t.statusPort = 0x00#8 ∧ t.keyValid = false ∧ t.doutValid = false ∧ t.opL = none ∧
      t.rnd = 0#4 ∧ t.st.written = false ∧ t.dout.written = false ∧ ∀ r : Fin 11, (t.rks.get r).written = false

/-- The invariant holds at reset. -/
def Obligations.ResetMeetsInvariant : Prop := Inv State.reset

/-- R26, R27, R30, R31, R99: every step keeps the invariant, from every state that meets it: OP_L and BUSY agree, RND is in
its command's range, a valid key is a complete schedule of one key, a valid result is there. -/
def Obligations.StepKeepsInvariant : Prop :=
  ∀ s t : State, Inv s → step s = .next t → Inv t

/-! Faults. -/

/-- R157: the three situations that a model must treat as a fault: a read of dout, and of rk_out, while its valid bit is 0,
and a rule or a port that reads a register at ⊥. -/
def Obligations.UnspecifiedReadsFault : Prop :=
  (∀ s : State, ReadsDoutNext s → s.doutValid = false → step s = .fault .doutNotValid) ∧
  (∀ s : State, ReadsRkNext s → s.keyValid = false → step s = .fault .rkOutNotValid) ∧
  (∀ s : State, s.opL = some .expandKey → 1 ≤ s.rnd.toNat → s.rnd.toNat ≤ 10 →
    s.roundKey (s.rnd.toNat - 1) = none → microStep s = .fault .readsBottom) ∧
  (∀ s : State, s.BlockInFlight → s.rnd.toNat ≤ 10 → (s.st.value = none ∨ s.roundKey s.rnd.toNat = none) →
    microStep s = .fault .readsBottom) ∧
  (∀ s : State, ReadsDoutNext s → s.doutValid = true → s.dout.value = none → step s = .fault .readsBottom) ∧
  (∀ s : State, ReadsRkNext s → s.keyValid = true → (∃ r : Fin 11, (s.rks.get r).value = none) →
    step s = .fault .readsBottom)

/-- R38, R150: from a state that meets the invariant a step answers a next state, unless it is the host's read of an output
whose valid bit is 0; so no rule reads ⊥ and no micro-step fails. -/
def Obligations.StepsStopOnlyOnInvalidReads : Prop :=
  ∀ s : State, Inv s → ¬(ReadsDoutNext s ∧ s.doutValid = false) → ¬(ReadsRkNext s ∧ s.keyValid = false) →
    ∃ t, step s = .next t

/-- R38: "No command reads ST, RKS or DOUT before writing it, and no port shows them while they hold ⊥": from a state that
meets the invariant, State.reset among them, no run of any length stops with anything but an invalid READ line's fault, so
the fault that R157 demands of a read of ⊥ is never met. -/
def Obligations.NoRunReadsBottom : Prop :=
  ∀ (s : State) (n : Nat) (f : Fault), Inv s → Host.Core.run core n s = .fault f → f = .doutNotValid ∨ f = .rkOutNotValid

/-- No step refuses, in any state. -/
def Obligations.StepNeverRefuses : Prop := ∀ (s : State) (r : Refusal), step s ≠ .refused r

/-! Outputs and ports. -/

/-- R28, R33: the fields of port status. -/
def Obligations.StatusPortLayout : Prop :=
  ∀ s : State, s.statusPort.getLsbD 0 = s.busy ∧ s.statusPort.getLsbD 1 = s.keyValid ∧
    s.statusPort.getLsbD 2 = s.doutValid ∧ s.statusPort.extractLsb' 3 2 = s.err.code ∧
    s.statusPort.extractLsb' 5 3 = 0#3 ∧ s.err.code ≠ 3#2

/-- R36, R48: READ STATUS returns STATUS always, READ DOUT returns DOUT while STATUS.DOUT_VALID = 1, READ RK r returns
RKS[r] while STATUS.KEY_VALID = 1, and none of them changes a register. That the reading is appended to `reads` is the
model's choice (notes/assumptions/5.md). -/
def Obligations.ReadsReturnOutputs : Prop :=
  ∀ s : State, Inv s → s.rst = false → s.cmdValid = false →
    (s.script.head? = some .readStatus →
      ∃ t, step s = .next t ∧ SameRegisters s t ∧ t.reads = s.reads ++ [.status s.statusPort]) ∧
    (s.script.head? = some .readDout → s.doutValid = true →
      ∃ t, step s = .next t ∧ SameRegisters s t ∧ t.reads = s.reads ++ [.dout (packBlock s.dout.bits)]) ∧
    (∀ r : Fin 11, s.script.head? = some (.readRk r) → s.keyValid = true →
      ∃ t, step s = .next t ∧ SameRegisters s t ∧ t.reads = s.reads ++ [.rk r (packBlock (s.rks.get r).bits)])

/-- R44: the port packing: bit k of byte i of a block, the reading back of a port, and byte j of the schedule on rk_out. -/
def Obligations.PortPacking : Prop :=
  (∀ (b : Block) (i : Fin 16) (k : Nat), k < 8 →
    (packBlock b).getLsbD (120 - 8 * i.val + k) = (b.byte i).getLsbD k) ∧
  (∀ b : Block, unpackBlock (packBlock b) = b) ∧ (∀ p : BitVec 128, packBlock (unpackBlock p) = p) ∧
  (∀ (k : Schedule) (r : Fin 11) (i : Fin 16),
    (packSchedule k).extractLsb' (1400 - 8 * (16 * r.val + i.val)) 8 = (k.get r).byte i)

/-- R176: the command and operand ports have no effect on a busy core: whatever they hold, the step answers the same
registers, or the same fault. With no script line it makes no difference either whether a command is presented; with one,
cmd_valid is the same on both sides, because it decides whether the host reads the line (notes/assumptions/5.md). -/
def Obligations.BusyCoreIgnoresInputPorts : Prop :=
  ∀ (s : State) (v : Bool) (c : Byte) (k d : BitVec 128), s.busy = true → (s.script = [] ∨ v = s.cmdValid) →
    match step s, step { s with cmdValid := v, cmd := c, keyIn := k, din := d } with
    | .next t, .next t' => SameRegisters t t'
    | .fault f, .fault f' => f = f'
    | _, _ => False

/-! Which events write which register. -/

/-- R24: only EXPAND_KEY writes RKS, and reset. -/
def Obligations.OnlyExpandKeyWritesSchedule : Prop :=
  ∀ s t : State, step s = .next t → t.rks ≠ s.rks →
    ResetsNext s ∨ TakesNext s 0x01#8 ∨ (s.busy = true ∧ s.opL = some .expandKey)

/-- R30: STATUS.KEY_VALID is written 0 by reset and by the take of EXPAND_KEY, 1 by the completion of EXPAND_KEY, and by no
other event; with it 0, ENCRYPT and DECRYPT are rejected. -/
def Obligations.KeyValidWrittenByItsEvents : Prop :=
  (∀ s t : State, step s = .next t →
    (ResetsNext s → t.keyValid = false) ∧
    (¬ResetsNext s →
      (TakesNext s 0x01#8 → t.keyValid = false) ∧
      (s.busy = true → s.opL = some .expandKey → t.busy = false → t.keyValid = true) ∧
      (¬TakesNext s 0x01#8 → ¬(s.busy = true ∧ s.opL = some .expandKey ∧ t.busy = false) →
        t.keyValid = s.keyValid))) ∧
  (∀ s t : State, s.keyValid = false → step s = .next t → (TakesNext s 0x02#8 ∨ TakesNext s 0x03#8) →
    ¬ResetsNext s → SameRegisters { s with err := .noKey } t)

/-- R31: STATUS.DOUT_VALID is written 0 by reset and by the take of ENCRYPT or DECRYPT, 1 by their completion, and not by
EXPAND_KEY or a rejected command; R25: DOUT itself is written by the completion alone, and by reset. -/
def Obligations.DoutValidWrittenByItsEvents : Prop :=
  ∀ s t : State, step s = .next t →
    (ResetsNext s → t.doutValid = false) ∧
    (¬ResetsNext s →
      (TakesNext s 0x02#8 ∨ TakesNext s 0x03#8 → s.keyValid = true → t.doutValid = false ∧ t.dout = s.dout) ∧
      (s.busy = true → s.BlockInFlight → t.busy = false → t.doutValid = true ∧ t.dout = t.st) ∧
      (¬((TakesNext s 0x02#8 ∨ TakesNext s 0x03#8) ∧ s.keyValid = true) →
        ¬(s.busy = true ∧ s.BlockInFlight ∧ t.busy = false) → t.doutValid = s.doutValid ∧ t.dout = s.dout))

/-- R32, R154: STATUS.ERR is written by every take, with 0 or the take's code, by reset with 0, and by nothing else. -/
def Obligations.ErrWrittenByTakesAndReset : Prop :=
  ∀ s t : State, step s = .next t →
    (ResetsNext s → t.err = .ok) ∧
    (¬ResetsNext s →
      (∀ c, TakesNext s c → t.err = takeOutcome s c) ∧ ((∀ c, ¬TakesNext s c) → t.err = s.err))

/-! GF(2^8) and the tables. -/

/-- R72: the branchless form of mul2, and its output bit by bit. -/
def Obligations.Mul2HasBranchlessForm : Prop :=
  ∀ a : Byte, mul2 a = mul2Branchless a ∧
    (mul2 a).getLsbD 0 = a.getLsbD 7 ∧ (mul2 a).getLsbD 1 = (a.getLsbD 0 ^^ a.getLsbD 7) ∧
    (mul2 a).getLsbD 2 = a.getLsbD 1 ∧ (mul2 a).getLsbD 3 = (a.getLsbD 2 ^^ a.getLsbD 7) ∧
    (mul2 a).getLsbD 4 = (a.getLsbD 3 ^^ a.getLsbD 7) ∧ (mul2 a).getLsbD 5 = a.getLsbD 4 ∧
    (mul2 a).getLsbD 6 = a.getLsbD 5 ∧ (mul2 a).getLsbD 7 = a.getLsbD 6

/-- R73: mul2 is linear and a bijection; composed k times it multiplies by x^k; the order of 0x02 is 51. -/
def Obligations.Mul2Laws : Prop :=
  (∀ a b : Byte, mul2 (a ^^^ b) = mul2 a ^^^ mul2 b) ∧ mul2 0x00#8 = 0x00#8 ∧
  (∀ b : Byte, ∃ a, mul2 a = b ∧ ∀ a', mul2 a' = b → a' = a) ∧
  (∀ (k : Nat) (a : Byte), iterate mul2 k a = gmul a (iterate mul2 k 0x01#8)) ∧
  (∀ a : Byte, iterate mul2 8 a = gmul a 0x1B#8) ∧
  iterate mul2 51 0x01#8 = 0x01#8 ∧ (∀ n, 1 ≤ n → n < 51 → iterate mul2 n 0x01#8 ≠ 0x01#8)

/-- R75, R76, R77: each chain multiplies by its coefficient. -/
def Obligations.MultiplierChainsAreFieldProducts : Prop :=
  ∀ a : Byte, mul2 a = gmul a 0x02#8 ∧ mul3 a = gmul a 0x03#8 ∧ mul4 a = gmul a 0x04#8 ∧ mul8 a = gmul a 0x08#8 ∧
    mul9 a = gmul a 0x09#8 ∧ mul11 a = gmul a 0x0B#8 ∧ mul13 a = gmul a 0x0D#8 ∧ mul14 a = gmul a 0x0E#8

/-- R79: every entry of SBOX is the affine map of the field inverse; `gfInverse` is that inverse, 0 to 0. -/
def Obligations.SboxIsInverseThenAffine : Prop :=
  ∀ x : Byte, SBOX x = sboxConstruction x ∧ (x ≠ 0x00#8 → gmul x (gfInverse x) = 0x01#8) ∧ gfInverse 0x00#8 = 0x00#8

/-- R81: the two tables invert each other, for all byte values. -/
def Obligations.SboxTablesInvertEachOther : Prop :=
  ∀ x : Byte, INV_SBOX (SBOX x) = x ∧ SBOX (INV_SBOX x) = x

/-! The key schedule and the round transformations. -/

/-- R90, R91: RC[0] = 0x01 and each round constant is mul2 of the one before. -/
def Obligations.RoundConstantsFollowRecurrence : Prop :=
  RC 0 = 0x01#8 ∧ ∀ i, 1 ≤ i → i ≤ 9 → RC i = mul2 (RC (i - 1))

/-- R95, R96, R97: round key 0 is the key; group 0 of round key r is the mixed last group of round key r-1 XOR its group 0,
and each later group is the group before it XOR the same group of round key r-1. -/
def Obligations.ScheduleGroups : Prop :=
  ∀ (key : Block), (expandKey key).get 0 = key ∧
    ∀ (r : Nat) (h : r < 10),
      let prev := (expandKey key).get ⟨r, by omega⟩
      let this := (expandKey key).get ⟨r + 1, by omega⟩
      this.col 0 = (keyCore (prev.col 3) (r + 1)).xor (prev.col 0) ∧
      ∀ g : Fin 4, g ≠ 0 → this.col g = (this.col (g - 1)).xor (prev.col g)

/-- R112: MixColumn is the matrix product with the circulant first row [02 03 01 01] over GF(2^8). -/
def Obligations.MixColumnIsMatrixProduct : Prop :=
  ∀ (w : Word) (i : Fin 4),
    (mixColumn w).byte i =
      gmul (w.byte i) 0x02#8 ^^^ gmul (w.byte (i + 1)) 0x03#8 ^^^ w.byte (i + 2) ^^^ w.byte (i + 3)

/-- R132: InvMixColumn is the matrix product with the circulant first row [0E 0B 0D 09], and MixColumn and it invert each
other on every word. -/
def Obligations.InvMixColumnInvertsMixColumn : Prop :=
  (∀ (w : Word) (i : Fin 4),
    (invMixColumn w).byte i =
      gmul (w.byte i) 0x0E#8 ^^^ gmul (w.byte (i + 1)) 0x0B#8 ^^^ gmul (w.byte (i + 2)) 0x0D#8 ^^^
        gmul (w.byte (i + 3)) 0x09#8) ∧
  (∀ w : Word, invMixColumn (mixColumn w) = w) ∧ (∀ w : Word, mixColumn (invMixColumn w) = w)

/-- R133: the factored form equals InvMixColumn on every word. -/
def Obligations.FactoredInvMixColumnAgrees : Prop := ∀ w : Word, invMixColumnFactored w = invMixColumn w

/-- R111, R131: in flat indices ShiftRows and InvShiftRows are the permutations P and Q, and each inverts the other. -/
def Obligations.ShiftRowsPermutesBytes : Prop :=
  (∀ (s : Block) (i : Fin 16),
    (shiftRows s).byte i = s.byte (#v[0, 5, 10, 15, 4, 9, 14, 3, 8, 13, 2, 7, 12, 1, 6, 11].get i) ∧
    (invShiftRows s).byte i = s.byte (#v[0, 13, 10, 7, 4, 1, 14, 11, 8, 5, 2, 15, 12, 9, 6, 3].get i)) ∧
  (∀ s : Block, invShiftRows (shiftRows s) = s ∧ shiftRows (invShiftRows s) = s)

/-- R116, R130, R134: the inverse transformations undo the forward ones on every block, and SubBytes and ShiftRows
commute. -/
def Obligations.InverseTransformsCancel : Prop :=
  ∀ s : Block, invSubBytes (subBytes s) = s ∧ subBytes (invSubBytes s) = s ∧ invMixColumns (mixColumns s) = s ∧
    mixColumns (invMixColumns s) = s ∧ subBytes (shiftRows s) = shiftRows (subBytes s)
end

