-- ==== Sys2Proof/Laws/State.lean ====
section
/-!
SUPPORT. What each named update of State leaves in each field. Later proofs cite these and unfold no update.
-/

namespace Sys2Proof.Machine

open Sys2Proof

@[simp] theorem raiseError_st (code : ErrCode) (s : State) :
    (raiseError code s).st = s.st := rfl
@[simp] theorem raiseError_rks (code : ErrCode) (s : State) :
    (raiseError code s).rks = s.rks := rfl
@[simp] theorem raiseError_dout (code : ErrCode) (s : State) :
    (raiseError code s).dout = s.dout := rfl
@[simp] theorem raiseError_opL (code : ErrCode) (s : State) :
    (raiseError code s).opL = s.opL := rfl
@[simp] theorem raiseError_rnd (code : ErrCode) (s : State) :
    (raiseError code s).rnd = s.rnd := rfl
@[simp] theorem raiseError_busy (code : ErrCode) (s : State) :
    (raiseError code s).busy = s.busy := rfl
@[simp] theorem raiseError_keyValid (code : ErrCode) (s : State) :
    (raiseError code s).keyValid = s.keyValid := rfl
@[simp] theorem raiseError_doutValid (code : ErrCode) (s : State) :
    (raiseError code s).doutValid = s.doutValid := rfl
@[simp] theorem raiseError_err (code : ErrCode) (s : State) :
    (raiseError code s).err = code := rfl
@[simp] theorem raiseError_cmdValid (code : ErrCode) (s : State) :
    (raiseError code s).cmdValid = s.cmdValid := rfl
@[simp] theorem raiseError_cmd (code : ErrCode) (s : State) :
    (raiseError code s).cmd = s.cmd := rfl
@[simp] theorem raiseError_keyIn (code : ErrCode) (s : State) :
    (raiseError code s).keyIn = s.keyIn := rfl
@[simp] theorem raiseError_din (code : ErrCode) (s : State) :
    (raiseError code s).din = s.din := rfl
@[simp] theorem raiseError_rst (code : ErrCode) (s : State) :
    (raiseError code s).rst = s.rst := rfl
@[simp] theorem raiseError_script (code : ErrCode) (s : State) :
    (raiseError code s).script = s.script := rfl
@[simp] theorem raiseError_reads (code : ErrCode) (s : State) :
    (raiseError code s).reads = s.reads := rfl
@[simp] theorem raiseError_free (code : ErrCode) (s : State) :
    (raiseError code s).free = s.free := rfl

@[simp] theorem start_st (i : Instr) (s : State) :
    (start i s).st = s.st := rfl
@[simp] theorem start_rks (i : Instr) (s : State) :
    (start i s).rks = s.rks := rfl
@[simp] theorem start_dout (i : Instr) (s : State) :
    (start i s).dout = s.dout := rfl
@[simp] theorem start_opL (i : Instr) (s : State) :
    (start i s).opL = some i := rfl
@[simp] theorem start_rnd (i : Instr) (s : State) :
    (start i s).rnd = s.rnd := rfl
@[simp] theorem start_busy (i : Instr) (s : State) :
    (start i s).busy = true := rfl
@[simp] theorem start_keyValid (i : Instr) (s : State) :
    (start i s).keyValid = s.keyValid := rfl
@[simp] theorem start_doutValid (i : Instr) (s : State) :
    (start i s).doutValid = s.doutValid := rfl
@[simp] theorem start_err (i : Instr) (s : State) :
    (start i s).err = .ok := rfl
@[simp] theorem start_cmdValid (i : Instr) (s : State) :
    (start i s).cmdValid = s.cmdValid := rfl
@[simp] theorem start_cmd (i : Instr) (s : State) :
    (start i s).cmd = s.cmd := rfl
@[simp] theorem start_keyIn (i : Instr) (s : State) :
    (start i s).keyIn = s.keyIn := rfl
@[simp] theorem start_din (i : Instr) (s : State) :
    (start i s).din = s.din := rfl
@[simp] theorem start_rst (i : Instr) (s : State) :
    (start i s).rst = s.rst := rfl
@[simp] theorem start_script (i : Instr) (s : State) :
    (start i s).script = s.script := rfl
@[simp] theorem start_reads (i : Instr) (s : State) :
    (start i s).reads = s.reads := rfl
@[simp] theorem start_free (i : Instr) (s : State) :
    (start i s).free = s.free := rfl

@[simp] theorem startBlock_st (i : Instr) (d : Block) (r : BitVec 4) (s : State) :
    (startBlock i d r s).st = .hold d := rfl
@[simp] theorem startBlock_rks (i : Instr) (d : Block) (r : BitVec 4) (s : State) :
    (startBlock i d r s).rks = s.rks := rfl
@[simp] theorem startBlock_dout (i : Instr) (d : Block) (r : BitVec 4) (s : State) :
    (startBlock i d r s).dout = s.dout := rfl
@[simp] theorem startBlock_opL (i : Instr) (d : Block) (r : BitVec 4) (s : State) :
    (startBlock i d r s).opL = some i := rfl
@[simp] theorem startBlock_rnd (i : Instr) (d : Block) (r : BitVec 4) (s : State) :
    (startBlock i d r s).rnd = r := rfl
@[simp] theorem startBlock_busy (i : Instr) (d : Block) (r : BitVec 4) (s : State) :
    (startBlock i d r s).busy = true := rfl
@[simp] theorem startBlock_keyValid (i : Instr) (d : Block) (r : BitVec 4) (s : State) :
    (startBlock i d r s).keyValid = s.keyValid := rfl
@[simp] theorem startBlock_doutValid (i : Instr) (d : Block) (r : BitVec 4) (s : State) :
    (startBlock i d r s).doutValid = false := rfl
@[simp] theorem startBlock_err (i : Instr) (d : Block) (r : BitVec 4) (s : State) :
    (startBlock i d r s).err = .ok := rfl
@[simp] theorem startBlock_cmdValid (i : Instr) (d : Block) (r : BitVec 4) (s : State) :
    (startBlock i d r s).cmdValid = s.cmdValid := rfl
@[simp] theorem startBlock_cmd (i : Instr) (d : Block) (r : BitVec 4) (s : State) :
    (startBlock i d r s).cmd = s.cmd := rfl
@[simp] theorem startBlock_keyIn (i : Instr) (d : Block) (r : BitVec 4) (s : State) :
    (startBlock i d r s).keyIn = s.keyIn := rfl
@[simp] theorem startBlock_din (i : Instr) (d : Block) (r : BitVec 4) (s : State) :
    (startBlock i d r s).din = s.din := rfl
@[simp] theorem startBlock_rst (i : Instr) (d : Block) (r : BitVec 4) (s : State) :
    (startBlock i d r s).rst = s.rst := rfl
@[simp] theorem startBlock_script (i : Instr) (d : Block) (r : BitVec 4) (s : State) :
    (startBlock i d r s).script = s.script := rfl
@[simp] theorem startBlock_reads (i : Instr) (d : Block) (r : BitVec 4) (s : State) :
    (startBlock i d r s).reads = s.reads := rfl
@[simp] theorem startBlock_free (i : Instr) (d : Block) (r : BitVec 4) (s : State) :
    (startBlock i d r s).free = s.free := rfl

@[simp] theorem startExpand_st (k : Block) (s : State) :
    (startExpand k s).st = s.st := rfl
@[simp] theorem startExpand_rks (k : Block) (s : State) :
    (startExpand k s).rks = tabulate11 fun r => if r = 0 then .hold k else .bottom (Config.freeBlock (s.free + r.val)) := rfl
@[simp] theorem startExpand_dout (k : Block) (s : State) :
    (startExpand k s).dout = s.dout := rfl
@[simp] theorem startExpand_opL (k : Block) (s : State) :
    (startExpand k s).opL = some .expandKey := rfl
@[simp] theorem startExpand_rnd (k : Block) (s : State) :
    (startExpand k s).rnd = 1#4 := rfl
@[simp] theorem startExpand_busy (k : Block) (s : State) :
    (startExpand k s).busy = true := rfl
@[simp] theorem startExpand_keyValid (k : Block) (s : State) :
    (startExpand k s).keyValid = false := rfl
@[simp] theorem startExpand_doutValid (k : Block) (s : State) :
    (startExpand k s).doutValid = s.doutValid := rfl
@[simp] theorem startExpand_err (k : Block) (s : State) :
    (startExpand k s).err = .ok := rfl
@[simp] theorem startExpand_cmdValid (k : Block) (s : State) :
    (startExpand k s).cmdValid = s.cmdValid := rfl
@[simp] theorem startExpand_cmd (k : Block) (s : State) :
    (startExpand k s).cmd = s.cmd := rfl
@[simp] theorem startExpand_keyIn (k : Block) (s : State) :
    (startExpand k s).keyIn = s.keyIn := rfl
@[simp] theorem startExpand_din (k : Block) (s : State) :
    (startExpand k s).din = s.din := rfl
@[simp] theorem startExpand_rst (k : Block) (s : State) :
    (startExpand k s).rst = s.rst := rfl
@[simp] theorem startExpand_script (k : Block) (s : State) :
    (startExpand k s).script = s.script := rfl
@[simp] theorem startExpand_reads (k : Block) (s : State) :
    (startExpand k s).reads = s.reads := rfl
@[simp] theorem startExpand_free (k : Block) (s : State) :
    (startExpand k s).free = s.free + 11 := rfl

@[simp] theorem complete_st (s : State) :
    (complete s).st = s.st := rfl
@[simp] theorem complete_rks (s : State) :
    (complete s).rks = s.rks := rfl
@[simp] theorem complete_dout (s : State) :
    (complete s).dout = s.dout := rfl
@[simp] theorem complete_opL (s : State) :
    (complete s).opL = none := rfl
@[simp] theorem complete_rnd (s : State) :
    (complete s).rnd = 0#4 := rfl
@[simp] theorem complete_busy (s : State) :
    (complete s).busy = false := rfl
@[simp] theorem complete_keyValid (s : State) :
    (complete s).keyValid = s.keyValid := rfl
@[simp] theorem complete_doutValid (s : State) :
    (complete s).doutValid = s.doutValid := rfl
@[simp] theorem complete_err (s : State) :
    (complete s).err = s.err := rfl
@[simp] theorem complete_cmdValid (s : State) :
    (complete s).cmdValid = s.cmdValid := rfl
@[simp] theorem complete_cmd (s : State) :
    (complete s).cmd = s.cmd := rfl
@[simp] theorem complete_keyIn (s : State) :
    (complete s).keyIn = s.keyIn := rfl
@[simp] theorem complete_din (s : State) :
    (complete s).din = s.din := rfl
@[simp] theorem complete_rst (s : State) :
    (complete s).rst = s.rst := rfl
@[simp] theorem complete_script (s : State) :
    (complete s).script = s.script := rfl
@[simp] theorem complete_reads (s : State) :
    (complete s).reads = s.reads := rfl
@[simp] theorem complete_free (s : State) :
    (complete s).free = s.free := rfl

@[simp] theorem completeExpand_st (s : State) :
    (completeExpand s).st = s.st := rfl
@[simp] theorem completeExpand_rks (s : State) :
    (completeExpand s).rks = s.rks := rfl
@[simp] theorem completeExpand_dout (s : State) :
    (completeExpand s).dout = s.dout := rfl
@[simp] theorem completeExpand_opL (s : State) :
    (completeExpand s).opL = none := rfl
@[simp] theorem completeExpand_rnd (s : State) :
    (completeExpand s).rnd = 0#4 := rfl
@[simp] theorem completeExpand_busy (s : State) :
    (completeExpand s).busy = false := rfl
@[simp] theorem completeExpand_keyValid (s : State) :
    (completeExpand s).keyValid = true := rfl
@[simp] theorem completeExpand_doutValid (s : State) :
    (completeExpand s).doutValid = s.doutValid := rfl
@[simp] theorem completeExpand_err (s : State) :
    (completeExpand s).err = s.err := rfl
@[simp] theorem completeExpand_cmdValid (s : State) :
    (completeExpand s).cmdValid = s.cmdValid := rfl
@[simp] theorem completeExpand_cmd (s : State) :
    (completeExpand s).cmd = s.cmd := rfl
@[simp] theorem completeExpand_keyIn (s : State) :
    (completeExpand s).keyIn = s.keyIn := rfl
@[simp] theorem completeExpand_din (s : State) :
    (completeExpand s).din = s.din := rfl
@[simp] theorem completeExpand_rst (s : State) :
    (completeExpand s).rst = s.rst := rfl
@[simp] theorem completeExpand_script (s : State) :
    (completeExpand s).script = s.script := rfl
@[simp] theorem completeExpand_reads (s : State) :
    (completeExpand s).reads = s.reads := rfl
@[simp] theorem completeExpand_free (s : State) :
    (completeExpand s).free = s.free := rfl

@[simp] theorem completeBlock_st (b : Block) (s : State) :
    (completeBlock b s).st = .hold b := rfl
@[simp] theorem completeBlock_rks (b : Block) (s : State) :
    (completeBlock b s).rks = s.rks := rfl
@[simp] theorem completeBlock_dout (b : Block) (s : State) :
    (completeBlock b s).dout = .hold b := rfl
@[simp] theorem completeBlock_opL (b : Block) (s : State) :
    (completeBlock b s).opL = none := rfl
@[simp] theorem completeBlock_rnd (b : Block) (s : State) :
    (completeBlock b s).rnd = 0#4 := rfl
@[simp] theorem completeBlock_busy (b : Block) (s : State) :
    (completeBlock b s).busy = false := rfl
@[simp] theorem completeBlock_keyValid (b : Block) (s : State) :
    (completeBlock b s).keyValid = s.keyValid := rfl
@[simp] theorem completeBlock_doutValid (b : Block) (s : State) :
    (completeBlock b s).doutValid = true := rfl
@[simp] theorem completeBlock_err (b : Block) (s : State) :
    (completeBlock b s).err = s.err := rfl
@[simp] theorem completeBlock_cmdValid (b : Block) (s : State) :
    (completeBlock b s).cmdValid = s.cmdValid := rfl
@[simp] theorem completeBlock_cmd (b : Block) (s : State) :
    (completeBlock b s).cmd = s.cmd := rfl
@[simp] theorem completeBlock_keyIn (b : Block) (s : State) :
    (completeBlock b s).keyIn = s.keyIn := rfl
@[simp] theorem completeBlock_din (b : Block) (s : State) :
    (completeBlock b s).din = s.din := rfl
@[simp] theorem completeBlock_rst (b : Block) (s : State) :
    (completeBlock b s).rst = s.rst := rfl
@[simp] theorem completeBlock_script (b : Block) (s : State) :
    (completeBlock b s).script = s.script := rfl
@[simp] theorem completeBlock_reads (b : Block) (s : State) :
    (completeBlock b s).reads = s.reads := rfl
@[simp] theorem completeBlock_free (b : Block) (s : State) :
    (completeBlock b s).free = s.free := rfl

@[simp] theorem nextRound_st (b : Block) (r : BitVec 4) (s : State) :
    (nextRound b r s).st = .hold b := rfl
@[simp] theorem nextRound_rks (b : Block) (r : BitVec 4) (s : State) :
    (nextRound b r s).rks = s.rks := rfl
@[simp] theorem nextRound_dout (b : Block) (r : BitVec 4) (s : State) :
    (nextRound b r s).dout = s.dout := rfl
@[simp] theorem nextRound_opL (b : Block) (r : BitVec 4) (s : State) :
    (nextRound b r s).opL = s.opL := rfl
@[simp] theorem nextRound_rnd (b : Block) (r : BitVec 4) (s : State) :
    (nextRound b r s).rnd = r := rfl
@[simp] theorem nextRound_busy (b : Block) (r : BitVec 4) (s : State) :
    (nextRound b r s).busy = s.busy := rfl
@[simp] theorem nextRound_keyValid (b : Block) (r : BitVec 4) (s : State) :
    (nextRound b r s).keyValid = s.keyValid := rfl
@[simp] theorem nextRound_doutValid (b : Block) (r : BitVec 4) (s : State) :
    (nextRound b r s).doutValid = s.doutValid := rfl
@[simp] theorem nextRound_err (b : Block) (r : BitVec 4) (s : State) :
    (nextRound b r s).err = s.err := rfl
@[simp] theorem nextRound_cmdValid (b : Block) (r : BitVec 4) (s : State) :
    (nextRound b r s).cmdValid = s.cmdValid := rfl
@[simp] theorem nextRound_cmd (b : Block) (r : BitVec 4) (s : State) :
    (nextRound b r s).cmd = s.cmd := rfl
@[simp] theorem nextRound_keyIn (b : Block) (r : BitVec 4) (s : State) :
    (nextRound b r s).keyIn = s.keyIn := rfl
@[simp] theorem nextRound_din (b : Block) (r : BitVec 4) (s : State) :
    (nextRound b r s).din = s.din := rfl
@[simp] theorem nextRound_rst (b : Block) (r : BitVec 4) (s : State) :
    (nextRound b r s).rst = s.rst := rfl
@[simp] theorem nextRound_script (b : Block) (r : BitVec 4) (s : State) :
    (nextRound b r s).script = s.script := rfl
@[simp] theorem nextRound_reads (b : Block) (r : BitVec 4) (s : State) :
    (nextRound b r s).reads = s.reads := rfl
@[simp] theorem nextRound_free (b : Block) (r : BitVec 4) (s : State) :
    (nextRound b r s).free = s.free := rfl

@[simp] theorem writeRoundKey_st (s : State) (r : Nat) (b : Block) :
    (s.writeRoundKey r b).st = s.st := rfl
@[simp] theorem writeRoundKey_rks (s : State) (r : Nat) (b : Block) :
    (s.writeRoundKey r b).rks = s.rks.setIfInBounds r (.hold b) := rfl
@[simp] theorem writeRoundKey_dout (s : State) (r : Nat) (b : Block) :
    (s.writeRoundKey r b).dout = s.dout := rfl
@[simp] theorem writeRoundKey_opL (s : State) (r : Nat) (b : Block) :
    (s.writeRoundKey r b).opL = s.opL := rfl
@[simp] theorem writeRoundKey_rnd (s : State) (r : Nat) (b : Block) :
    (s.writeRoundKey r b).rnd = s.rnd := rfl
@[simp] theorem writeRoundKey_busy (s : State) (r : Nat) (b : Block) :
    (s.writeRoundKey r b).busy = s.busy := rfl
@[simp] theorem writeRoundKey_keyValid (s : State) (r : Nat) (b : Block) :
    (s.writeRoundKey r b).keyValid = s.keyValid := rfl
@[simp] theorem writeRoundKey_doutValid (s : State) (r : Nat) (b : Block) :
    (s.writeRoundKey r b).doutValid = s.doutValid := rfl
@[simp] theorem writeRoundKey_err (s : State) (r : Nat) (b : Block) :
    (s.writeRoundKey r b).err = s.err := rfl
@[simp] theorem writeRoundKey_cmdValid (s : State) (r : Nat) (b : Block) :
    (s.writeRoundKey r b).cmdValid = s.cmdValid := rfl
@[simp] theorem writeRoundKey_cmd (s : State) (r : Nat) (b : Block) :
    (s.writeRoundKey r b).cmd = s.cmd := rfl
@[simp] theorem writeRoundKey_keyIn (s : State) (r : Nat) (b : Block) :
    (s.writeRoundKey r b).keyIn = s.keyIn := rfl
@[simp] theorem writeRoundKey_din (s : State) (r : Nat) (b : Block) :
    (s.writeRoundKey r b).din = s.din := rfl
@[simp] theorem writeRoundKey_rst (s : State) (r : Nat) (b : Block) :
    (s.writeRoundKey r b).rst = s.rst := rfl
@[simp] theorem writeRoundKey_script (s : State) (r : Nat) (b : Block) :
    (s.writeRoundKey r b).script = s.script := rfl
@[simp] theorem writeRoundKey_reads (s : State) (r : Nat) (b : Block) :
    (s.writeRoundKey r b).reads = s.reads := rfl
@[simp] theorem writeRoundKey_free (s : State) (r : Nat) (b : Block) :
    (s.writeRoundKey r b).free = s.free := rfl

@[simp] theorem resetEvent_st (s : State) :
    (resetEvent s).st = .afterReset := rfl
@[simp] theorem resetEvent_rks (s : State) :
    (resetEvent s).rks = .replicate 11 .afterReset := rfl
@[simp] theorem resetEvent_dout (s : State) :
    (resetEvent s).dout = .afterReset := rfl
@[simp] theorem resetEvent_opL (s : State) :
    (resetEvent s).opL = none := rfl
@[simp] theorem resetEvent_rnd (s : State) :
    (resetEvent s).rnd = 0#4 := rfl
@[simp] theorem resetEvent_busy (s : State) :
    (resetEvent s).busy = false := rfl
@[simp] theorem resetEvent_keyValid (s : State) :
    (resetEvent s).keyValid = false := rfl
@[simp] theorem resetEvent_doutValid (s : State) :
    (resetEvent s).doutValid = false := rfl
@[simp] theorem resetEvent_err (s : State) :
    (resetEvent s).err = .ok := rfl
@[simp] theorem resetEvent_cmdValid (s : State) :
    (resetEvent s).cmdValid = s.cmdValid := rfl
@[simp] theorem resetEvent_cmd (s : State) :
    (resetEvent s).cmd = s.cmd := rfl
@[simp] theorem resetEvent_keyIn (s : State) :
    (resetEvent s).keyIn = s.keyIn := rfl
@[simp] theorem resetEvent_din (s : State) :
    (resetEvent s).din = s.din := rfl
@[simp] theorem resetEvent_rst (s : State) :
    (resetEvent s).rst = false := rfl
@[simp] theorem resetEvent_script (s : State) :
    (resetEvent s).script = s.script := rfl
@[simp] theorem resetEvent_reads (s : State) :
    (resetEvent s).reads = s.reads := rfl
@[simp] theorem resetEvent_free (s : State) :
    (resetEvent s).free = s.free := rfl

@[simp] theorem consumeCommand_st (s : State) :
    (consumeCommand s).st = s.st := rfl
@[simp] theorem consumeCommand_rks (s : State) :
    (consumeCommand s).rks = s.rks := rfl
@[simp] theorem consumeCommand_dout (s : State) :
    (consumeCommand s).dout = s.dout := rfl
@[simp] theorem consumeCommand_opL (s : State) :
    (consumeCommand s).opL = s.opL := rfl
@[simp] theorem consumeCommand_rnd (s : State) :
    (consumeCommand s).rnd = s.rnd := rfl
@[simp] theorem consumeCommand_busy (s : State) :
    (consumeCommand s).busy = s.busy := rfl
@[simp] theorem consumeCommand_keyValid (s : State) :
    (consumeCommand s).keyValid = s.keyValid := rfl
@[simp] theorem consumeCommand_doutValid (s : State) :
    (consumeCommand s).doutValid = s.doutValid := rfl
@[simp] theorem consumeCommand_err (s : State) :
    (consumeCommand s).err = s.err := rfl
@[simp] theorem consumeCommand_cmdValid (s : State) :
    (consumeCommand s).cmdValid = false := rfl
@[simp] theorem consumeCommand_cmd (s : State) :
    (consumeCommand s).cmd = s.cmd := rfl
@[simp] theorem consumeCommand_keyIn (s : State) :
    (consumeCommand s).keyIn = s.keyIn := rfl
@[simp] theorem consumeCommand_din (s : State) :
    (consumeCommand s).din = s.din := rfl
@[simp] theorem consumeCommand_rst (s : State) :
    (consumeCommand s).rst = s.rst := rfl
@[simp] theorem consumeCommand_script (s : State) :
    (consumeCommand s).script = s.script := rfl
@[simp] theorem consumeCommand_reads (s : State) :
    (consumeCommand s).reads = s.reads := rfl
@[simp] theorem consumeCommand_free (s : State) :
    (consumeCommand s).free = s.free := rfl

@[simp] theorem presentCommand_st (c : Byte) (k d : Option (BitVec 128)) (s : State) :
    (presentCommand c k d s).st = s.st := rfl
@[simp] theorem presentCommand_rks (c : Byte) (k d : Option (BitVec 128)) (s : State) :
    (presentCommand c k d s).rks = s.rks := rfl
@[simp] theorem presentCommand_dout (c : Byte) (k d : Option (BitVec 128)) (s : State) :
    (presentCommand c k d s).dout = s.dout := rfl
@[simp] theorem presentCommand_opL (c : Byte) (k d : Option (BitVec 128)) (s : State) :
    (presentCommand c k d s).opL = s.opL := rfl
@[simp] theorem presentCommand_rnd (c : Byte) (k d : Option (BitVec 128)) (s : State) :
    (presentCommand c k d s).rnd = s.rnd := rfl
@[simp] theorem presentCommand_busy (c : Byte) (k d : Option (BitVec 128)) (s : State) :
    (presentCommand c k d s).busy = s.busy := rfl
@[simp] theorem presentCommand_keyValid (c : Byte) (k d : Option (BitVec 128)) (s : State) :
    (presentCommand c k d s).keyValid = s.keyValid := rfl
@[simp] theorem presentCommand_doutValid (c : Byte) (k d : Option (BitVec 128)) (s : State) :
    (presentCommand c k d s).doutValid = s.doutValid := rfl
@[simp] theorem presentCommand_err (c : Byte) (k d : Option (BitVec 128)) (s : State) :
    (presentCommand c k d s).err = s.err := rfl
@[simp] theorem presentCommand_cmdValid (c : Byte) (k d : Option (BitVec 128)) (s : State) :
    (presentCommand c k d s).cmdValid = true := rfl
@[simp] theorem presentCommand_cmd (c : Byte) (k d : Option (BitVec 128)) (s : State) :
    (presentCommand c k d s).cmd = c := rfl
@[simp] theorem presentCommand_keyIn (c : Byte) (k d : Option (BitVec 128)) (s : State) :
    (presentCommand c k d s).keyIn = k.getD (Config.freePort s.free) := rfl
@[simp] theorem presentCommand_din (c : Byte) (k d : Option (BitVec 128)) (s : State) :
    (presentCommand c k d s).din = d.getD (Config.freePort (s.free + 1)) := rfl
@[simp] theorem presentCommand_rst (c : Byte) (k d : Option (BitVec 128)) (s : State) :
    (presentCommand c k d s).rst = s.rst := rfl
@[simp] theorem presentCommand_script (c : Byte) (k d : Option (BitVec 128)) (s : State) :
    (presentCommand c k d s).script = s.script := rfl
@[simp] theorem presentCommand_reads (c : Byte) (k d : Option (BitVec 128)) (s : State) :
    (presentCommand c k d s).reads = s.reads := rfl
@[simp] theorem presentCommand_free (c : Byte) (k d : Option (BitVec 128)) (s : State) :
    (presentCommand c k d s).free = s.free + 2 := rfl

@[simp] theorem recordRead_st (v : Reading) (s : State) :
    (recordRead v s).st = s.st := rfl
@[simp] theorem recordRead_rks (v : Reading) (s : State) :
    (recordRead v s).rks = s.rks := rfl
@[simp] theorem recordRead_dout (v : Reading) (s : State) :
    (recordRead v s).dout = s.dout := rfl
@[simp] theorem recordRead_opL (v : Reading) (s : State) :
    (recordRead v s).opL = s.opL := rfl
@[simp] theorem recordRead_rnd (v : Reading) (s : State) :
    (recordRead v s).rnd = s.rnd := rfl
@[simp] theorem recordRead_busy (v : Reading) (s : State) :
    (recordRead v s).busy = s.busy := rfl
@[simp] theorem recordRead_keyValid (v : Reading) (s : State) :
    (recordRead v s).keyValid = s.keyValid := rfl
@[simp] theorem recordRead_doutValid (v : Reading) (s : State) :
    (recordRead v s).doutValid = s.doutValid := rfl
@[simp] theorem recordRead_err (v : Reading) (s : State) :
    (recordRead v s).err = s.err := rfl
@[simp] theorem recordRead_cmdValid (v : Reading) (s : State) :
    (recordRead v s).cmdValid = s.cmdValid := rfl
@[simp] theorem recordRead_cmd (v : Reading) (s : State) :
    (recordRead v s).cmd = s.cmd := rfl
@[simp] theorem recordRead_keyIn (v : Reading) (s : State) :
    (recordRead v s).keyIn = s.keyIn := rfl
@[simp] theorem recordRead_din (v : Reading) (s : State) :
    (recordRead v s).din = s.din := rfl
@[simp] theorem recordRead_rst (v : Reading) (s : State) :
    (recordRead v s).rst = s.rst := rfl
@[simp] theorem recordRead_script (v : Reading) (s : State) :
    (recordRead v s).script = s.script := rfl
@[simp] theorem recordRead_reads (v : Reading) (s : State) :
    (recordRead v s).reads = s.reads ++ [v] := rfl
@[simp] theorem recordRead_free (v : Reading) (s : State) :
    (recordRead v s).free = s.free := rfl

@[simp] theorem presentTo_st (c : Byte) (s : State) :
    (presentTo c s).st = s.st := rfl
@[simp] theorem presentTo_rks (c : Byte) (s : State) :
    (presentTo c s).rks = s.rks := rfl
@[simp] theorem presentTo_dout (c : Byte) (s : State) :
    (presentTo c s).dout = s.dout := rfl
@[simp] theorem presentTo_opL (c : Byte) (s : State) :
    (presentTo c s).opL = none := rfl
@[simp] theorem presentTo_rnd (c : Byte) (s : State) :
    (presentTo c s).rnd = 0#4 := rfl
@[simp] theorem presentTo_busy (c : Byte) (s : State) :
    (presentTo c s).busy = false := rfl
@[simp] theorem presentTo_keyValid (c : Byte) (s : State) :
    (presentTo c s).keyValid = s.keyValid := rfl
@[simp] theorem presentTo_doutValid (c : Byte) (s : State) :
    (presentTo c s).doutValid = s.doutValid := rfl
@[simp] theorem presentTo_err (c : Byte) (s : State) :
    (presentTo c s).err = s.err := rfl
@[simp] theorem presentTo_cmdValid (c : Byte) (s : State) :
    (presentTo c s).cmdValid = true := rfl
@[simp] theorem presentTo_cmd (c : Byte) (s : State) :
    (presentTo c s).cmd = c := rfl
@[simp] theorem presentTo_keyIn (c : Byte) (s : State) :
    (presentTo c s).keyIn = s.keyIn := rfl
@[simp] theorem presentTo_din (c : Byte) (s : State) :
    (presentTo c s).din = s.din := rfl
@[simp] theorem presentTo_rst (c : Byte) (s : State) :
    (presentTo c s).rst = false := rfl
@[simp] theorem presentTo_script (c : Byte) (s : State) :
    (presentTo c s).script = s.script := rfl
@[simp] theorem presentTo_reads (c : Byte) (s : State) :
    (presentTo c s).reads = s.reads := rfl
@[simp] theorem presentTo_free (c : Byte) (s : State) :
    (presentTo c s).free = s.free := rfl

end Sys2Proof.Machine
end

