-- ==== Sys2Proof/Laws/Ops.lean ====
section
/-!
SUPPORT. One lemma for each shared operation that says what it can do: eleven-entry vectors, the ⊥ mark, reading and
writing round keys, the take's guard.
-/

namespace Sys2Proof

@[simp] theorem tabulate11_get {α : Type} (f : Fin 11 → α) (r : Fin 11) : (tabulate11 f).get r = f r := by
  match r with
  | 0 | 1 | 2 | 3 | 4 | 5 | 6 | 7 | 8 | 9 | 10 => rfl

theorem vector11_ext {α : Type} {v w : Vector α 11} (h : ∀ r : Fin 11, v.get r = w.get r) : v = w := by
  apply Vector.ext
  intro i hi
  simpa [Vector.get] using h ⟨i, hi⟩

namespace Machine

@[simp] theorem value_hold (b : Block) : (BlockReg.hold b).value = some b := rfl

@[simp] theorem value_bottom (b : Block) : (BlockReg.bottom b).value = none := rfl

@[simp] theorem value_afterReset : BlockReg.afterReset.value = none := rfl

@[simp] theorem written_hold (b : Block) : (BlockReg.hold b).written = true := rfl

@[simp] theorem written_bottom (b : Block) : (BlockReg.bottom b).written = false := rfl

@[simp] theorem written_afterReset : BlockReg.afterReset.written = false := rfl

/-- A register that is marked written holds its bits. -/
theorem eq_hold_of_written {r : BlockReg} (h : r.written = true) : r = .hold r.bits := by
  cases r; simp_all [BlockReg.hold]

theorem value_eq_some {r : BlockReg} {b : Block} : r.value = some b ↔ r = .hold b := by
  cases r with
  | mk bits written => cases written <;> simp [BlockReg.value, BlockReg.hold]

/-- `withValue` goes on exactly when there is a value. -/
@[simp] theorem withValue_some (b : Block) (k : Block → Result) : withValue (some b) k = k b := rfl

/-- A read of ⊥ is a model fault. -/
@[simp] theorem withValue_none (k : Block → Result) : withValue none k = .fault .readsBottom := rfl

/-- If `withValue` answers a next state, a value was there. -/
theorem withValue_next {v : Option Block} {k : Block → Result} {t : State} (h : withValue v k = .next t) :
    ∃ b, v = some b ∧ k b = .next t := by
  cases v with
  | none => cases h
  | some b => exact ⟨b, rfl, h⟩

@[simp] theorem whenReady_of_ready {s : State} (h : s.ready = true) (s' : State) : whenReady s s' = .next s' := by
  simp [whenReady, h]

@[simp] theorem whenReady_of_not_ready {s : State} (h : s.ready = false) (s' : State) : whenReady s s' = .next s := by
  simp [whenReady, h]

theorem ready_iff {s : State} : s.ready = true ↔ s.busy = false ∧ s.rst = false := by
  simp [State.ready]

/-- Reading a round key inside the schedule. -/
theorem roundKey_fin (s : State) (r : Fin 11) : s.roundKey r.val = (s.rks.get r).value := by
  simp [State.roundKey, Vector.get]

theorem roundKey_congr {s t : State} (h : s.rks = t.rks) (r : Nat) : s.roundKey r = t.roundKey r := by
  simp [State.roundKey, h]

/-- A round key reads back after it is written. -/
theorem roundKey_write_same (s : State) {r : Nat} (hr : r < 11) (b : Block) :
    (s.writeRoundKey r b).roundKey r = some b := by
  simp [State.roundKey, hr]

/-- Writing one round key leaves the others alone. -/
theorem roundKey_write_other (s : State) {r r' : Nat} (h : r ≠ r') (b : Block) :
    (s.writeRoundKey r b).roundKey r' = s.roundKey r' := by
  simp [State.roundKey, h]

@[simp] theorem holdSchedule_get (k : Schedule) (r : Fin 11) : (holdSchedule k).get r = .hold (k.get r) := by
  simp [holdSchedule]

/-- A state that holds the whole schedule `k` reads its round keys. -/
theorem roundKey_of_holdSchedule {s : State} {k : Schedule} (h : s.rks = holdSchedule k) (r : Fin 11) :
    s.roundKey r.val = some (k.get r) := by
  rw [roundKey_fin, h, holdSchedule_get, value_hold]

/-- All eleven round keys read as those of `k`: RKS holds `k`. -/
theorem eq_holdSchedule {s : State} {k : Schedule} (h : ∀ r : Fin 11, s.roundKey r.val = some (k.get r)) :
    s.rks = holdSchedule k := by
  apply vector11_ext
  intro r
  rw [holdSchedule_get, ← value_eq_some, ← roundKey_fin, h r]

/-- RKS holding `k` is the schedule `k`. -/
theorem schedule_of_holdSchedule {s : State} {k : Schedule} (h : s.rks = holdSchedule k) : s.schedule = some k := by
  have hw : ∀ r : Fin 11, (s.rks.get r).written = true := by simp [h]
  rw [State.schedule, if_pos hw]
  congr 1
  apply vector11_ext
  intro r
  simp [h, BlockReg.hold]

end Machine

end Sys2Proof
end

