-- ==== Sys2Proof/Laws/Datapath.lean ====
section
/-!
SUPPORT. Small lemmas of the datapath: XOR of words and blocks, GF(2)-linearity of `mul2` and the multiplications built
from it, the columns of the block functions, the round keys of a schedule.
-/

namespace Sys2Proof

@[simp] theorem Word.xor_self_right (a b : Word) : (a.xor b).xor b = a := by
  simp only [Word.xor, BitVec.xor_assoc, BitVec.xor_self, BitVec.xor_zero]

@[simp] theorem Block.xor_self_right (a b : Block) : (a.xor b).xor b = a := by
  simp [Block.xor]

/-- `mul2` is GF(2)-linear (R73): a shift is, and the reduction is chosen by one bit. -/
theorem mul2_xor (a b : Byte) : mul2 (a ^^^ b) = mul2 a ^^^ mul2 b := by
  have hs : (a ^^^ b) <<< 1 = a <<< 1 ^^^ b <<< 1 := BitVec.shiftLeft_xor_distrib a b 1
  cases ha : a.getLsbD 7 <;> cases hb : b.getLsbD 7 <;>
    simp only [mul2, BitVec.getLsbD_xor, ha, hb, hs, Bool.xor_false, Bool.xor_true, Bool.not_true, Bool.not_false,
      Bool.false_eq_true, if_true, if_false]
  · rw [BitVec.xor_assoc]
  · rw [BitVec.xor_assoc, BitVec.xor_assoc, BitVec.xor_comm 0x1B#8]
  · have hc : ∀ x y c : Byte, x ^^^ c ^^^ (y ^^^ c) = x ^^^ y := by
      intro x y c
      rw [BitVec.xor_assoc, BitVec.xor_comm y c, ← BitVec.xor_assoc c c y, BitVec.xor_self, BitVec.zero_xor]
    rw [hc]

@[simp] theorem addRoundKey_twice (s k : Block) : addRoundKey (addRoundKey s k) k = s := by
  simp [addRoundKey]

@[simp] theorem expandKey_get (key : Block) (r : Fin 11) : (expandKey key).get r = roundKeyOf key r.val := by
  simp [expandKey]

theorem mapCols_mapCols {f g : Word → Word} {s : Block} (h : ∀ w, f (g w) = w) : (s.mapCols g).mapCols f = s := by
  cases s; simp [Block.mapCols, h]

theorem map_map {f g : Byte → Byte} {s : Block} (h : ∀ a, f (g a) = a) : (s.map g).map f = s :=
  mapCols_mapCols fun w => by cases w; simp [Word.map, h]

end Sys2Proof
end

