-- ==== Sys2Proof/Laws/Events.lean ====
section
/-!
SUPPORT. What each event can do, once: if a micro-step, a take or a step answers a next state, one of the listed
cases holds. Later proofs cite these and unfold no event.
-/

namespace Sys2Proof.Machine

open Sys2Proof

theorem SameRegisters.refl (s : State) : SameRegisters s s := ⟨rfl, rfl, rfl, rfl, rfl, rfl, rfl, rfl, rfl⟩

theorem SameRegisters.symm {s t : State} (h : SameRegisters s t) : SameRegisters t s := by
  constructor <;> simp [h.st, h.rks, h.dout, h.opL, h.rnd, h.busy, h.keyValid, h.doutValid, h.err]

theorem SameRegisters.trans {s t u : State} (h : SameRegisters s t) (h' : SameRegisters t u) : SameRegisters s u := by
  constructor <;>
    simp [h.st, h.rks, h.dout, h.opL, h.rnd, h.busy, h.keyValid, h.doutValid, h.err,
      h'.st, h'.rks, h'.dout, h'.opL, h'.rnd, h'.busy, h'.keyValid, h'.doutValid, h'.err]

/-! Micro-steps. -/

/-- R99 with its reads in hand. -/
theorem microExpandKey_of {s : State} {prev : Block} (h1 : 1 ≤ s.rnd.toNat) (h10 : s.rnd.toNat ≤ 10)
    (hp : s.roundKey (s.rnd.toNat - 1) = some prev) :
    microExpandKey s =
      .next (if s.rnd.toNat = 10 then completeExpand (s.writeRoundKey s.rnd.toNat (keyRound prev s.rnd.toNat))
        else { s.writeRoundKey s.rnd.toNat (keyRound prev s.rnd.toNat) with rnd := s.rnd + 1#4 }) := by
  simp [microExpandKey, h1, h10, hp]

/-- What a micro-step of EXPAND_KEY can do. -/
theorem microExpandKey_next {s t : State} (h : microExpandKey s = .next t) :
    1 ≤ s.rnd.toNat ∧ s.rnd.toNat ≤ 10 ∧ ∃ prev, s.roundKey (s.rnd.toNat - 1) = some prev ∧
      ((s.rnd.toNat = 10 ∧ t = completeExpand (s.writeRoundKey 10 (keyRound prev 10))) ∨
       (s.rnd.toNat < 10 ∧
        t = { s.writeRoundKey s.rnd.toNat (keyRound prev s.rnd.toNat) with rnd := s.rnd + 1#4 })) := by
  simp only [microExpandKey] at h
  split at h
  case isFalse => cases h
  case isTrue hr =>
    obtain ⟨prev, hp, h⟩ := withValue_next h
    refine ⟨hr.1, hr.2, prev, hp, ?_⟩
    by_cases h10 : s.rnd.toNat = 10
    · simp [h10] at h; exact .inl ⟨h10, h.symm⟩
    · simp [h10] at h; exact .inr ⟨by omega, h.symm⟩

/-- R120 with its reads in hand. -/
theorem microEncrypt_of {s : State} {b k : Block} (h10 : s.rnd.toNat ≤ 10) (hb : s.st.value = some b)
    (hk : s.roundKey s.rnd.toNat = some k) :
    microEncrypt s =
      .next (if s.rnd.toNat = 0 then nextRound (encRound0 b k) 1#4 s
        else if s.rnd.toNat ≤ 9 then nextRound (encRound b k) (s.rnd + 1#4) s
        else completeBlock (encFinal b k) s) := by
  simp [microEncrypt, h10, hb, hk]

/-- What a micro-step of ENCRYPT can do. -/
theorem microEncrypt_next {s t : State} (h : microEncrypt s = .next t) :
    s.rnd.toNat ≤ 10 ∧ ∃ b k, s.st.value = some b ∧ s.roundKey s.rnd.toNat = some k ∧
      ((s.rnd.toNat = 0 ∧ t = nextRound (encRound0 b k) 1#4 s) ∨
       (1 ≤ s.rnd.toNat ∧ s.rnd.toNat ≤ 9 ∧ t = nextRound (encRound b k) (s.rnd + 1#4) s) ∨
       (s.rnd.toNat = 10 ∧ t = completeBlock (encFinal b k) s)) := by
  simp only [microEncrypt] at h
  split at h
  case isFalse => cases h
  case isTrue hr =>
    obtain ⟨b, hb, h⟩ := withValue_next h
    obtain ⟨k, hk, h⟩ := withValue_next h
    refine ⟨hr, b, k, hb, hk, ?_⟩
    simp only [Host.Outcome.next.injEq] at h
    subst h
    by_cases h0 : s.rnd.toNat = 0
    · exact .inl ⟨h0, by simp [h0]⟩
    · by_cases h9 : s.rnd.toNat ≤ 9
      · exact .inr (.inl ⟨by omega, h9, by simp [h0, h9]⟩)
      · exact .inr (.inr ⟨by omega, by simp [h0, h9]⟩)

/-- R142 with its reads in hand. -/
theorem microDecrypt_of {s : State} {b k : Block} (h10 : s.rnd.toNat ≤ 10) (hb : s.st.value = some b)
    (hk : s.roundKey s.rnd.toNat = some k) :
    microDecrypt s =
      .next (if s.rnd.toNat = 10 then nextRound (decStart b k) 9#4 s
        else if 1 ≤ s.rnd.toNat then nextRound (decRound b k) (s.rnd - 1#4) s
        else completeBlock (decFinal b k) s) := by
  simp [microDecrypt, h10, hb, hk]

/-- What a micro-step of DECRYPT can do. -/
theorem microDecrypt_next {s t : State} (h : microDecrypt s = .next t) :
    s.rnd.toNat ≤ 10 ∧ ∃ b k, s.st.value = some b ∧ s.roundKey s.rnd.toNat = some k ∧
      ((s.rnd.toNat = 10 ∧ t = nextRound (decStart b k) 9#4 s) ∨
       (1 ≤ s.rnd.toNat ∧ s.rnd.toNat ≤ 9 ∧ t = nextRound (decRound b k) (s.rnd - 1#4) s) ∨
       (s.rnd.toNat = 0 ∧ t = completeBlock (decFinal b k) s)) := by
  simp only [microDecrypt] at h
  split at h
  case isFalse => cases h
  case isTrue hr =>
    obtain ⟨b, hb, h⟩ := withValue_next h
    obtain ⟨k, hk, h⟩ := withValue_next h
    refine ⟨hr, b, k, hb, hk, ?_⟩
    simp only [Host.Outcome.next.injEq] at h
    subst h
    by_cases h10 : s.rnd.toNat = 10
    · exact .inl ⟨h10, by simp [h10]⟩
    · by_cases h1 : 1 ≤ s.rnd.toNat
      · exact .inr (.inl ⟨h1, by omega, by simp [h10, h1]⟩)
      · exact .inr (.inr ⟨by omega, by simp [h10, h1]⟩)

/-- A micro-step is the micro-step of the command in flight. -/
theorem microStep_next {s t : State} (h : microStep s = .next t) :
    (s.opL = some .expandKey ∧ microExpandKey s = .next t) ∨
    (s.opL = some .encrypt ∧ microEncrypt s = .next t) ∨
    (s.opL = some .decrypt ∧ microDecrypt s = .next t) := by
  rcases ho : s.opL with - | i
  · simp [microStep, ho] at h
  · cases i <;> simp [microStep, ho] at h ⊢ <;> exact h

/-- `n + 1` micro-steps are one and then `n`. -/
theorem microSteps_succ {s t : State} (h : microStep s = .next t) (n : Nat) :
    microSteps (n + 1) s = microSteps n t := by
  simp [microSteps, h]

/-- `n` micro-steps and then one. -/
theorem microSteps_add_one {n : Nat} {s t : State} (h : microSteps n s = .next t) :
    microSteps (n + 1) s = microStep t := by
  induction n generalizing s with
  | zero =>
    simp only [microSteps, Host.Outcome.next.injEq] at h
    subst h
    simp only [microSteps]
    cases microStep s <;> rfl
  | succ n ih =>
    rw [microSteps] at h
    rw [microSteps]
    cases hm : microStep s <;> simp only [hm] at h ⊢
    · exact ih h
    · cases h
    · cases h

/-! A micro-step reads the registers alone. -/

/-- Both answers are next states with the same registers, or both are the same fault. -/
def SameAnswer (o o' : Result) : Prop :=
  match o, o' with
  | .next t, .next t' => SameRegisters t t'
  | .fault f, .fault f' => f = f'
  | _, _ => False

theorem SameAnswer.withValue {k k' : Block → Result} (v : Option Block) (h : ∀ b, SameAnswer (k b) (k' b)) :
    SameAnswer (withValue v k) (withValue v k') := by
  cases v with
  | none => exact rfl
  | some b => exact h b

theorem SameAnswer.ite {p : Prop} [Decidable p] {a b a' b' : Result} (h : SameAnswer a a') (h' : SameAnswer b b') :
    SameAnswer (if p then a else b) (if p then a' else b') := by
  split <;> assumption

theorem SameRegisters.ite {p : Prop} [Decidable p] {a b a' b' : State} (h : SameRegisters a a') (h' : SameRegisters b b') :
    SameRegisters (if p then a else b) (if p then a' else b') := by
  split <;> assumption

theorem SameRegisters.writeRoundKey {s u : State} (h : SameRegisters s u) (r : Nat) (b : Block) :
    SameRegisters (s.writeRoundKey r b) (u.writeRoundKey r b) :=
  ⟨h.st, by simp [h.rks], h.dout, h.opL, h.rnd, h.busy, h.keyValid, h.doutValid, h.err⟩

/-- From states with the same registers, the micro-steps answer the same registers, or the same fault. -/
theorem microStep_congr {s u : State} (h : SameRegisters s u) : SameAnswer (microStep s) (microStep u) := by
  have hk : ∀ r, u.roundKey r = s.roundKey r := roundKey_congr h.rks
  have next : ∀ b r, SameRegisters (nextRound b r s) (nextRound b r u) := fun b r =>
    ⟨rfl, h.rks, h.dout, h.opL, rfl, h.busy, h.keyValid, h.doutValid, h.err⟩
  have done : ∀ b, SameRegisters (completeBlock b s) (completeBlock b u) := fun b =>
    ⟨rfl, h.rks, rfl, rfl, rfl, rfl, h.keyValid, rfl, h.err⟩
  rw [microStep, microStep, h.opL]
  rcases s.opL with - | i
  · exact rfl
  · cases i with
    | expandKey =>
      simp only [microExpandKey, h.rnd, hk]
      refine .ite (.withValue _ fun b => ?_) rfl
      have hw := h.writeRoundKey s.rnd.toNat (keyRound b s.rnd.toNat)
      exact SameRegisters.ite ⟨hw.st, hw.rks, hw.dout, rfl, rfl, rfl, rfl, hw.doutValid, hw.err⟩
        ⟨hw.st, hw.rks, hw.dout, hw.opL, rfl, hw.busy, hw.keyValid, hw.doutValid, hw.err⟩
    | encrypt =>
      simp only [microEncrypt, h.rnd, h.st, hk]
      exact .ite (.withValue _ fun b => .withValue _ fun k =>
        SameRegisters.ite (next _ _) (SameRegisters.ite (next _ _) (done _))) rfl
    | decrypt =>
      simp only [microDecrypt, h.rnd, h.st, hk]
      exact .ite (.withValue _ fun b => .withValue _ fun k =>
        SameRegisters.ite (next _ _) (SameRegisters.ite (next _ _) (done _))) rfl

/-! Takes. -/

/-- What a take can do. -/
inductive TakeCase (s t : State) : Prop
  | expandKey (hc : s.cmd = 0x01#8) (ht : t = startExpand s.keyOperand (consumeCommand s))
  | encrypt (hc : s.cmd = 0x02#8) (hk : s.keyValid = true)
      (ht : t = startBlock .encrypt s.blockOperand 0#4 (consumeCommand s))
  | decrypt (hc : s.cmd = 0x03#8) (hk : s.keyValid = true)
      (ht : t = startBlock .decrypt s.blockOperand 10#4 (consumeCommand s))
  | noKey (hc : s.cmd = 0x02#8 ∨ s.cmd = 0x03#8) (hk : s.keyValid = false)
      (ht : t = raiseError .noKey (consumeCommand s))
  | reservedCmd (hd : decode s.cmd = .reserved) (ht : t = raiseError .reservedCmd (consumeCommand s))

theorem decode_command {c : Byte} {i : Instr} (h : decode c = .command i) : c = encode i := by
  have all : ∀ c : Byte, ∀ i ∈ [Instr.expandKey, .encrypt, .decrypt], decode c = .command i → c = encode i := by
    decide +kernel
  exact all c i (by cases i <;> simp) h

/-- A take of a ready core answers a next state, one of the five cases. -/
theorem issueEvent_of_ready {s : State} (hr : s.ready = true) : ∃ t, issueEvent s = .next t ∧ TakeCase s t := by
  have hr' : (consumeCommand s).ready = true := by
    simpa [State.ready] using hr
  rw [issueEvent, if_pos hr]
  cases hd : decode s.cmd with
  | reserved => exact ⟨_, rfl, .reservedCmd hd rfl⟩
  | command i =>
    have hc := decode_command hd
    cases i with
    | expandKey => exact ⟨_, whenReady_of_ready hr' _, .expandKey hc rfl⟩
    | encrypt =>
      cases hk : s.keyValid with
      | true => exact ⟨_, whenReady_of_ready hr' _, .encrypt hc hk (by simp [hk, State.blockOperand])⟩
      | false => exact ⟨_, whenReady_of_ready hr' _, .noKey (.inl hc) hk (by simp [hk])⟩
    | decrypt =>
      cases hk : s.keyValid with
      | true => exact ⟨_, whenReady_of_ready hr' _, .decrypt hc hk (by simp [hk, State.blockOperand])⟩
      | false => exact ⟨_, whenReady_of_ready hr' _, .noKey (.inr hc) hk (by simp [hk])⟩

/-- The take of a command byte by a ready core is `exec` of the command. -/
theorem issueEvent_command {s : State} {i : Instr} (hr : s.ready = true) (hd : decode s.cmd = .command i) :
    issueEvent s = exec i (consumeCommand s) := by
  rw [issueEvent, if_pos hr, hd]

/-- The take of a reserved byte by a ready core is its rejection. -/
theorem issueEvent_reserved {s : State} (hr : s.ready = true) (hd : decode s.cmd = .reserved) :
    issueEvent s = .next (raiseError .reservedCmd (consumeCommand s)) := by
  rw [issueEvent, if_pos hr, hd]

/-! Steps. -/

/-- The core's event of a busy core is its micro-step. -/
theorem coreEvent_of_busy {s : State} (hb : s.busy = true) : coreEvent s = microStep s := by
  rw [coreEvent, if_pos hb]

/-- The core's event of an idle core with a presented command is the take. -/
theorem coreEvent_of_command {s : State} (hb : s.busy = false) (hv : s.cmdValid = true) :
    coreEvent s = issueEvent s := by
  rw [coreEvent, if_neg (by simp [hb]), if_pos hv]

/-- An idle core without a command has no event. -/
theorem coreEvent_of_quiet {s : State} (hb : s.busy = false) (hv : s.cmdValid = false) : coreEvent s = .next s := by
  rw [coreEvent, if_neg (by simp [hb]), if_neg (by simp [hv])]

/-- What a step that answers a next state can do. `u` is `s` after the host's part of the step: the same registers, its
ports driven and its script's line taken off. -/
inductive StepCase (s t : State) : Prop
  | reset (hr : ResetsNext s) (u : State) (hu : SameRegisters s u) (ht : t = resetEvent u)
  | micro (hr : s.rst = false) (hb : s.busy = true) (u : State) (hu : SameRegisters s u) (ht : microStep u = .next t)
  | take (hr : s.rst = false) (hb : s.busy = false) (u : State) (hu : SameRegisters s u) (ht : TakeCase u t)
  | quiet (hu : SameRegisters s t)

/-- The core's own event, from a state whose registers are those of `s`. -/
theorem coreEvent_next {s u t : State} (h : coreEvent u = .next t) (hu : SameRegisters s u) (hr : s.rst = false)
    (hr' : u.rst = false) : StepCase s t := by
  rw [coreEvent] at h
  cases hb : u.busy with
  | true =>
    rw [hb, if_pos rfl] at h
    exact .micro hr (hu.busy ▸ hb) u hu h
  | false =>
    have hb' : s.busy = false := hu.busy ▸ hb
    cases hv : u.cmdValid with
    | true =>
      simp only [hb, hv, Bool.false_eq_true, if_false, if_true] at h
      obtain ⟨t', ht', hc⟩ := issueEvent_of_ready (ready_iff.2 ⟨hb, hr'⟩)
      rw [ht'] at h
      cases h
      exact .take hr hb' u hu hc
    | false =>
      simp only [hb, hv, Bool.false_eq_true, if_false] at h
      cases h
      exact .quiet hu

theorem registers_takeLine (s : State) (rest : List HostLine) : SameRegisters s { s with script := rest } :=
  ⟨rfl, rfl, rfl, rfl, rfl, rfl, rfl, rfl, rfl⟩

/-- rst = 1: the step is a Reset event. -/
theorem step_of_rst {s : State} (hr : s.rst = true) : step s = .next (resetEvent s) := by
  rw [step, hostStep, if_pos hr]

/-- A presented command: the step is the core's event, and no script line runs. -/
theorem step_of_command {s : State} (hr : s.rst = false) (hv : s.cmdValid = true) : step s = coreEvent s := by
  rw [step, hostStep, if_neg (by simp [hr]), if_pos hv]

/-- No command and no script line: the step is the core's event. -/
theorem step_of_no_line {s : State} (hr : s.rst = false) (hv : s.cmdValid = false) (hs : s.script = []) :
    step s = coreEvent s := by
  rw [step, hostStep, if_neg (by simp [hr]), if_neg (by simp [hv]), hs]

/-- No command and a script line: the step runs the line. -/
theorem step_of_line {s : State} {line : HostLine} {rest : List HostLine} (hr : s.rst = false) (hv : s.cmdValid = false)
    (hs : s.script = line :: rest) : step s = runLine line { s with script := rest } := by
  rw [step, hostStep, if_neg (by simp [hr]), if_neg (by simp [hv]), hs]

/-- The take of the byte `c`, from the port or from a script's line: the step is the Issue event of a ready state `u` with
the same registers, in which the command is presented and its line taken off. -/
theorem step_of_takes {s : State} {c : Byte} (h : TakesNext s c) :
    ∃ u, SameRegisters s u ∧ u.cmd = c ∧ u.cmdValid = true ∧ u.ready = true ∧
      (u.script = if s.cmdValid then s.script else s.script.tail) ∧ step s = issueEvent u := by
  obtain ⟨hr, hb, hp⟩ := h
  cases hv : s.cmdValid with
  | true =>
    refine ⟨s, .refl s, ?_, hv, ready_iff.2 ⟨hb, hr⟩, rfl, ?_⟩
    · simpa [presented, hv] using hp
    · rw [step_of_command hr hv, coreEvent_of_command hb hv]
  | false =>
    have line : ∀ k d rest, s.script.tail = rest →
        step s = coreEvent (presentCommand c k d { s with script := rest }) →
        ∃ u, SameRegisters s u ∧ u.cmd = c ∧ u.cmdValid = true ∧ u.ready = true ∧
          (u.script = if false = true then s.script else s.script.tail) ∧ step s = issueEvent u := by
      intro k d rest ht hs
      refine ⟨presentCommand c k d { s with script := rest }, ⟨rfl, rfl, rfl, rfl, rfl, rfl, rfl, rfl, rfl⟩, rfl, rfl,
        ready_iff.2 ⟨hb, hr⟩, by simp [ht], ?_⟩
      rw [hs, coreEvent_of_command (s := presentCommand c k d { s with script := rest }) hb rfl]
    rw [presented, if_neg (by simp [hv])] at hp
    split at hp
    next c' k d rest hs =>
      cases hp
      exact line k d rest (by simp [hs]) (step_of_line hr hv hs)
    next c' k d rest hs =>
      cases hp
      refine line k d rest (by simp [hs]) ((step_of_line hr hv hs).trans ?_)
      unfold runLine
      exact if_neg (by simp [hb])
    next => cases hp

/-- The step of a script's command line that meets a busy core is a micro-step, with the command presented. -/
theorem step_of_held_line {s : State} {c : Byte} {k d : Option (BitVec 128)} {rest : List HostLine} (hr : s.rst = false)
    (hb : s.busy = true) (hv : s.cmdValid = false) (hs : s.script = .issue c k d :: rest) :
    step s = microStep (presentCommand c k d { s with script := rest }) :=
  (step_of_line hr hv hs).trans (coreEvent_of_busy (s := presentCommand c k d { s with script := rest }) hb)

/-- What a script line can do. -/
theorem runLine_next {s : State} {line : HostLine} {rest : List HostLine} {t : State} (hr : s.rst = false)
    (hv : s.cmdValid = false) (hs : s.script = line :: rest) (h : runLine line { s with script := rest } = .next t) :
    StepCase s t := by
  have hu := registers_takeLine s rest
  cases line with
  | issue c k d => exact coreEvent_next h ⟨rfl, rfl, rfl, rfl, rfl, rfl, rfl, rfl, rfl⟩ hr hr
  | offer c k d =>
    unfold runLine at h
    dsimp only at h
    split at h
    · exact coreEvent_next h ⟨rfl, rfl, rfl, rfl, rfl, rfl, rfl, rfl, rfl⟩ hr hr
    · exact coreEvent_next h ⟨rfl, rfl, rfl, rfl, rfl, rfl, rfl, rfl, rfl⟩ hr hr
  | wait =>
    unfold runLine at h
    dsimp only at h
    split at h
    · exact coreEvent_next h (registers_takeLine s (.wait :: rest)) hr hr
    · cases h; exact .quiet hu
  | pass => exact coreEvent_next h hu hr hr
  | readStatus => cases h; exact .quiet ⟨rfl, rfl, rfl, rfl, rfl, rfl, rfl, rfl, rfl⟩
  | readDout =>
    unfold runLine at h
    dsimp only at h
    split at h
    · cases h; exact .quiet ⟨rfl, rfl, rfl, rfl, rfl, rfl, rfl, rfl, rfl⟩
    · cases h
  | readRk r =>
    unfold runLine at h
    dsimp only at h
    split at h
    · cases h; exact .quiet ⟨rfl, rfl, rfl, rfl, rfl, rfl, rfl, rfl, rfl⟩
    · cases h
  | reset => cases h; exact .reset (.inr ⟨hv, by simp [hs]⟩) _ hu rfl

/-- What a step can do. -/
theorem step_next {s t : State} (h : step s = .next t) : StepCase s t := by
  cases hr : s.rst with
  | true =>
    rw [step_of_rst hr] at h
    cases h
    exact .reset (.inl hr) s (.refl s) rfl
  | false =>
    cases hv : s.cmdValid with
    | true => exact coreEvent_next (step_of_command hr hv ▸ h) (.refl s) hr hr
    | false =>
      cases hs : s.script with
      | nil => exact coreEvent_next (step_of_no_line hr hv hs ▸ h) (.refl s) hr hr
      | cons line rest => exact runLine_next hr hv hs (step_of_line hr hv hs ▸ h)

/-- A micro-step never refuses. -/
theorem microStep_not_refused (s : State) (r : Refusal) : microStep s ≠ .refused r := by
  have hw : ∀ (v : Option Block) (k : Block → Result), (∀ b, k b ≠ .refused r) → withValue v k ≠ .refused r := by
    intro v k hk
    cases v with
    | none => simp
    | some b => exact hk b
  rcases ho : s.opL with - | i
  · simp [microStep, ho]
  · cases i <;> simp only [microStep, ho, microExpandKey, microEncrypt, microDecrypt] <;> split <;>
      first | (intro h; cases h) | skip
    · exact hw _ _ fun _ h => by cases h
    · exact hw _ _ fun _ => hw _ _ fun _ h => by cases h
    · exact hw _ _ fun _ => hw _ _ fun _ h => by cases h

end Sys2Proof.Machine
end

