-- ==== Sys2Proof/Laws/PerInstr.lean ====
section
/-!
SUPPORT. The statements made per instruction: the command byte of every instruction has the CMD8 fields that the format
allows (spec/30_encoding.md R60).
-/

namespace Sys2Proof.Laws.CommandFormat

open Sys2Proof

/-- R60: RSV = 0b000000 and OP names the instruction. -/
def Statement (i : Instr) : Prop := (Cmd8.ofByte (encode i)).wf = true ∧ (Cmd8.ofByte (encode i)).op = i.op

theorem expandKey : Statement .expandKey := by simp only [Statement]; decide

theorem encrypt : Statement .encrypt := by simp only [Statement]; decide

theorem decrypt : Statement .decrypt := by simp only [Statement]; decide

end Sys2Proof.Laws.CommandFormat
end

