-- ==== Sys2Proof/Laws/Ports.lean ====
section
/-!
SUPPORT. Reading a field out of bit vectors packed one after another (spec/20_memory.md R44).
-/

namespace Sys2Proof

/-- A field that lies in the less significant part. -/
theorem extract_append_low {m n : Nat} (x : BitVec m) (y : BitVec n) {start len : Nat} (h : start + len ≤ n) :
    (x ++ y).extractLsb' start len = y.extractLsb' start len := by
  apply BitVec.eq_of_getLsbD_eq
  intro i hi
  simp only [BitVec.getLsbD_extractLsb', hi, decide_true, Bool.true_and, BitVec.getLsbD_append]
  rw [if_pos (by omega)]

/-- A field that lies in the more significant part. -/
theorem extract_append_high {m n : Nat} (x : BitVec m) (y : BitVec n) {start len : Nat} (h : n ≤ start) :
    (x ++ y).extractLsb' start len = x.extractLsb' (start - n) len := by
  apply BitVec.eq_of_getLsbD_eq
  intro i hi
  simp only [BitVec.getLsbD_extractLsb', hi, decide_true, Bool.true_and, BitVec.getLsbD_append]
  rw [if_neg (by omega), show start + i - n = start - n + i by omega]

/-- The whole of a bit vector. -/
theorem extract_all {n : Nat} (x : BitVec n) : x.extractLsb' 0 n = x := by
  apply BitVec.eq_of_getLsbD_eq
  intro i hi
  simp [hi]

/-- A field of a field. -/
theorem extract_extract {n : Nat} (x : BitVec n) {a b len len' : Nat} (h : b + len' ≤ len) :
    (x.extractLsb' a len).extractLsb' b len' = x.extractLsb' (a + b) len' := by
  apply BitVec.eq_of_getLsbD_eq
  intro i hi
  simp only [BitVec.getLsbD_extractLsb', hi, decide_true, Bool.true_and]
  rw [decide_eq_true (by omega), Bool.true_and, Nat.add_assoc]

end Sys2Proof
end

