-- ==== Sys2Proof/Laws/Run.lean ====
section
/-!
SUPPORT. Runs of the machine, one step at a time.
-/

namespace Sys2Proof.Machine

/-- A run of `n + 1` steps is a step and a run of `n`. -/
theorem coreRun_succ (M : Host.Core) {s t : M.State} (h : M.step s = .next t) (n : Nat) : M.run (n + 1) s = M.run n t := by
  rw [Host.Core.run, h]

/-- The same for this machine, with its own names. -/
theorem run_succ {s t : State} (h : step s = .next t) (n : Nat) :
    Host.Core.run Sys2Proof.core (n + 1) s = Host.Core.run Sys2Proof.core n t :=
  coreRun_succ Sys2Proof.core h n

/-- A run whose first step faults stops with that fault. -/
theorem coreRun_fault (M : Host.Core) {s : M.State} {f : M.Fault} (h : M.step s = .fault f) (n : Nat) :
    M.run (n + 1) s = .fault f := by
  rw [Host.Core.run, h]

/-- The same for this machine, with its own names. -/
theorem run_fault {s : State} {f : Fault} (h : step s = .fault f) (n : Nat) :
    Host.Core.run Sys2Proof.core (n + 1) s = .fault f :=
  coreRun_fault Sys2Proof.core h n

/-- A run of no steps stays. -/
theorem run_zero (s : State) : Host.Core.run Sys2Proof.core 0 s = .next s := rfl

end Sys2Proof.Machine
end

