-- ==== Sys2Proof/Tests/Slice0.lean ====
section
/-!
SUPPORT. Tests, each with the place of spec/ its expected value comes from, and for each statement of Obligations.lean a
concrete state that meets its hypotheses.
-/

namespace Sys2Proof.Tests

open Sys2Proof Sys2Proof.Machine

/-! Well-formed fields: each check refuses an ill-formed byte (R60, R64). -/

theorem test_wf_refuses_rsv : Cmd8.wf { op := 0b01#2, rsv := 0b100000#6 } = false := by decide
theorem test_wf_refuses_op : Cmd8.wf { op := 0b00#2, rsv := 0b000000#6 } = false := by decide
theorem test_wf_accepts : ([0b01#2, 0b10#2, 0b11#2].all fun op => Cmd8.wf { op := op, rsv := 0#6 }) = true := by decide

/-! Decoding: the words of R61, bit by bit, RSV then OP. -/

theorem test_decode_expandKey : decode 0b000000_01#8 = .command .expandKey := by decide
theorem test_decode_encrypt : decode 0b000000_10#8 = .command .encrypt := by decide
theorem test_decode_decrypt : decode 0b000000_11#8 = .command .decrypt := by decide
theorem test_decode_reserved : ([0b000000_00#8, 0b000001_00#8, 0b100000_01#8, 0b111111_11#8].all fun c =>
    decode c == .reserved) = true := by decide
theorem test_decode_wf_agree : ∀ c : Byte, (Cmd8.ofByte c).wf = true ↔ decode c ≠ .reserved := by decide +kernel
theorem test_tableWord : decodeTableWord 8 2 = some .encrypt ∧ decodeTableWord 8 0 = none ∧ decodeTableWord 8 0x81 = none := by
  decide

/-! States. -/

/-- The state a result answers. -/
def nextState? (r : Result) : Option State :=
  match r with
  | .next t => some t
  | .fault _ => none
  | .refused _ => none

/-- The fault a result answers. -/
def fault? (r : Result) : Option Fault :=
  match r with
  | .fault f => some f
  | .next _ => none
  | .refused _ => none

/-- Port status after the result. -/
def statusAfter (r : Result) : Option (BitVec 8) := (nextState? r).map (·.statusPort)

/-- The key and the blocks of L1-1. -/
def key1 : BitVec 128 := 0x000102030405060708090a0b0c0d0e0f#128
def plain1 : BitVec 128 := 0x00112233445566778899aabbccddeeff#128
def cipher1 : BitVec 128 := 0x69c4e0d86a7b0430d8cdb78070b4c55a#128

/-- A block from a port value. -/
abbrev blk (p : BitVec 128) : Block := unpackBlock p

/-- The core idle with the schedule of `k`, and the operands `k` and `d` on the ports. -/
def keyed (k d : BitVec 128) : State :=
  { State.reset with rks := holdSchedule (expandKey (blk k)), keyValid := true, keyIn := k, din := d }

/-- EXPAND_KEY in flight before the micro-step of round `r`. -/
def expandingAt (k : BitVec 128) (r : Nat) : State :=
  { State.reset with
    busy := true, opL := some .expandKey, rnd := BitVec.ofNat 4 r
    rks := tabulate11 fun i => if i.val < r then .hold (roundKeyOf (blk k) i.val) else .afterReset }

/-- A block command in flight, ST holding `b`. -/
def blockAt (i : Instr) (b : BitVec 128) (r : Nat) : State :=
  { keyed key1 0 with busy := true, opL := some i, rnd := BitVec.ofNat 4 r, st := .hold (blk b) }

/-- A command byte presented on the port. -/
def presenting (c : Byte) (s : State) : State := { s with cmdValid := true, cmd := c }

/-- A script about to run. -/
def scripted (l : List HostLine) (s : State) : State := { s with script := l }

/-! Commands, two tests each. Sources: L2-10, L2-9, L2-7, L2-8. -/

theorem test_expandKey_keeps_dout : statusAfter (exec .expandKey { keyed key1 plain1 with doutValid := true }) = some 0x05#8 := by
  decide +kernel
theorem test_expandKey_last_round :
    (nextState? (microStep (expandingAt key1 10))).map (fun t => (t.roundKey 10, t.statusPort, t.rnd, t.opL)) =
      some (some (blk 0x13111d7fe3944a17f307a78b4d2b30c5#128), 0x02#8, 0#4, none) := by decide +kernel
theorem test_encrypt_needs_key : statusAfter (exec .encrypt State.reset) = some 0x10#8 := by decide +kernel
theorem test_encrypt_round2 :
    (nextState? (microStep (blockAt .encrypt 0x89d810e8855ace682d1843d8cb128fe4#128 2))).map (fun t => (t.st, t.rnd)) =
      some (.hold (blk 0x4915598f55e5d7a0daca94fa1f0a63f7#128), 3#4) := by decide +kernel
theorem test_decrypt_start :
    (nextState? (microStep (blockAt .decrypt cipher1 10))).map (fun t => (t.st, t.rnd)) =
      some (.hold (blk 0xbd6e7c3df2b5779e0b61216e8b10b689#128), 9#4) := by decide +kernel
theorem test_decrypt_round9 :
    (nextState? (microStep (blockAt .decrypt 0xbd6e7c3df2b5779e0b61216e8b10b689#128 9))).map (fun t => (t.st, t.rnd)) =
      some (.hold (blk 0xfde3bad205e5d0d73547964ef1fe37f1#128), 8#4) := by decide +kernel

/-! The datapath. Sources: L1-1, L1-10, L2-1 to L2-6. -/

theorem test_encrypt_vector : packBlock (encrypt (expandKey (blk key1)) (blk plain1)) = cipher1 := by decide +kernel
theorem test_decrypt_wrong_key :
    packBlock (decrypt (expandKey (blk 0)) (blk cipher1)) = 0x6e6f8729956f673bac4e96ae9512d790#128 := by decide +kernel
theorem test_decrypt_vector :
    packBlock (decrypt (expandKey (blk 0x2b7e151628aed2a6abf7158809cf4f3c#128)) (blk 0x3243f6a8885a308d313198a2e0370734#128)) =
      0xcb13389c1d59c1d50d11f6b90c38ce7f#128 := by decide +kernel
theorem test_key_round : packBlock (keyRound (blk key1) 1) = 0xd6aa74fdd2af72fadaa678f1d6ab76fe#128 := by decide +kernel
theorem test_shiftRows : packBlock (shiftRows (blk plain1)) = 0x0055aaff4499ee3388dd2277cc1166bb#128 := by decide +kernel
theorem test_invShiftRows : packBlock (invShiftRows (blk plain1)) = 0x00ddaa774411eebb885522ffcc996633#128 := by
  decide +kernel
theorem test_mixColumn : packWord (mixColumn ⟨0x80#8, 0x00#8, 0x00#8, 0x00#8⟩) = 0x1b80809b#32 := by decide +kernel
theorem test_invMixColumn : packWord (invMixColumn ⟨0x80#8, 0x00#8, 0x00#8, 0x00#8⟩) = 0x41ecdaf7#32 := by decide +kernel
theorem test_subBytes :
    packBlock (subBytes (blk 0x00102030405060708090a0b0c0d0e0f0#128)) = 0x63cab7040953d051cd60e0e7ba70e18c#128 := by
  decide +kernel
theorem test_invSubBytes :
    packBlock (invSubBytes (blk 0x7a9f102789d5f50b2beffd9f3dca4ea7#128)) = 0xbd6e7c3df2b5779e0b61216e8b10b689#128 := by
  decide +kernel
theorem test_multiplier_chains : [mul9, mul11, mul13, mul14].map (· 0x80#8) = [0xEC#8, 0xF7#8, 0xDA#8, 0x41#8] := by
  decide +kernel
theorem test_gmul : gmul 0x57#8 0x83#8 = 0xC1#8 ∧ gmul 0x57#8 0x13#8 = 0xFE#8 := by decide +kernel

/-! Steps. Sources: L2-10, P3, P5. -/

theorem test_reserved_keeps_key : statusAfter (step (presenting 0x81#8 (keyed key1 0))) = some 0x0a#8 := by decide +kernel
theorem test_reset_any_state : statusAfter (step { blockAt .encrypt plain1 3 with rst := true }) = some 0x00#8 := by
  decide +kernel
theorem test_read_dout_faults : fault? (step (scripted [.readDout] State.reset)) = some .doutNotValid := by decide +kernel
theorem test_read_rk_faults : fault? (step (scripted [.readRk 0] (expandingAt key1 1))) = some .rkOutNotValid := by
  decide +kernel
theorem test_read_rk :
    (nextState? (step (scripted [.readRk 1] (keyed key1 0)))).map (·.reads) =
      some [.rk 1 0xd6aa74fdd2af72fadaa678f1d6ab76fe#128] := by decide +kernel
theorem test_fetchWord : statusAfter (step (State.reset.withFetchWord 8 0b00000001)) = some 0x01#8 := by decide +kernel

/-! States that meet the invariant. -/

theorem inv_reset : Inv State.reset where
  busy_iff := by decide
  round := rfl
  key := by intro h; cases h
  expanding := by intro h; cases h
  block := by rintro (h | h) <;> cases h
  result := by intro h; cases h

theorem inv_keyed (k d : BitVec 128) : Inv (keyed k d) where
  busy_iff := by simp [keyed, State.reset]
  round := rfl
  key := fun _ => ⟨blk k, rfl⟩
  expanding := by intro h; cases h
  block := by rintro (h | h) <;> cases h
  result := by intro h; cases h

theorem rnd_ofNat {r : Nat} (h : r ≤ 10) : (BitVec.ofNat 4 r).toNat = r := by
  rw [BitVec.toNat_ofNat]; omega

theorem inv_expandingAt (k : BitVec 128) {r : Nat} (h1 : 1 ≤ r) (h10 : r ≤ 10) : Inv (expandingAt k r) where
  busy_iff := by simp [expandingAt]
  round := by
    show 1 ≤ (BitVec.ofNat 4 r).toNat ∧ (BitVec.ofNat 4 r).toNat ≤ 10
    rw [rnd_ofNat h10]; exact ⟨h1, h10⟩
  key := by intro h; cases h
  expanding := fun _ => ⟨rfl, blk k, fun i hi => by
    have hi' : i < r := by rw [← rnd_ofNat h10]; exact hi
    rw [show i = (⟨i, by omega⟩ : Fin 11).val from rfl, roundKey_fin]
    show ((tabulate11 fun j : Fin 11 => if j.val < r then BlockReg.hold (roundKeyOf (blk k) j.val) else .afterReset).get
      ⟨i, by omega⟩).value = _
    rw [tabulate11_get, if_pos hi', value_hold]⟩
  block := by rintro (h | h) <;> cases h
  result := by intro h; cases h

theorem inv_blockAt {i : Instr} (hi : i ≠ .expandKey) (b : BitVec 128) {r : Nat} (h : r ≤ 10) : Inv (blockAt i b r) where
  busy_iff := by simp [blockAt]
  round := by
    cases i with
    | expandKey => exact absurd rfl hi
    | encrypt => show (BitVec.ofNat 4 r).toNat ≤ 10; rw [rnd_ofNat h]; exact h
    | decrypt => show (BitVec.ofNat 4 r).toNat ≤ 10; rw [rnd_ofNat h]; exact h
  key := fun _ => ⟨blk key1, rfl⟩
  expanding := by intro h; exact absurd (Option.some.inj h) hi
  block := fun _ => ⟨rfl, rfl, rfl⟩
  result := by intro h; cases h

/-- The invariant speaks of the registers alone. -/
theorem inv_of_same {s t : State} (h : SameRegisters s t) (hi : Inv s) : Inv t where
  busy_iff := by rw [h.busy, h.opL]; exact hi.busy_iff
  round := by unfold State.RoundInRange; rw [h.opL, h.rnd]; exact hi.round
  key := by rw [h.keyValid, h.rks]; exact hi.key
  expanding := by
    rw [h.opL, h.keyValid, h.rnd]
    intro ho
    obtain ⟨hk, k, hr⟩ := hi.expanding ho
    exact ⟨hk, k, fun r hlt => (roundKey_congr h.rks r).trans (hr r hlt)⟩
  block := by
    intro hb
    rw [h.keyValid, h.doutValid, h.st]
    exact hi.block (by unfold State.BlockInFlight at hb ⊢; rw [← h.opL]; exact hb)
  result := by rw [h.doutValid, h.dout]; exact hi.result

theorem inv_presenting (c : Byte) {s : State} (hi : Inv s) : Inv (presenting c s) :=
  inv_of_same (s := s) ⟨rfl, rfl, rfl, rfl, rfl, rfl, rfl, rfl, rfl⟩ hi

theorem inv_scripted (l : List HostLine) {s : State} (hi : Inv s) : Inv (scripted l s) :=
  inv_of_same (s := s) ⟨rfl, rfl, rfl, rfl, rfl, rfl, rfl, rfl, rfl⟩ hi

/-- An idle keyed core with a result in DOUT. -/
def withResult : State := { keyed key1 plain1 with dout := .hold (blk cipher1), doutValid := true }

theorem inv_withResult : Inv withResult where
  busy_iff := by decide
  round := rfl
  key := fun _ => ⟨blk key1, rfl⟩
  expanding := by intro h; cases h
  block := by rintro (h | h) <;> cases h
  result := fun _ => rfl

/-! A witness for the hypotheses of every statement that has some, and of each of its clauses. -/

theorem witness_decode_encode : decode 0x01#8 = .command .expandKey ∧ decode 0x03#8 = .command .decrypt := by decide

/-- StepRunsDecodedCommand: a command on the port. -/
theorem witness_step_port :
    let s := presenting 0x02#8 State.reset
    s.rst = false ∧ s.busy = false ∧ s.cmdValid = true ∧ decode s.cmd = .command .encrypt := by decide

/-- StepRunsDecodedCommand: a script's command line. -/
theorem witness_step_issue :
    let s := scripted [.issue 0x03#8 none (some cipher1)] State.reset
    s.rst = false ∧ s.busy = false ∧ s.cmdValid = false ∧ s.script = .issue 0x03#8 none (some cipher1) :: [] ∧
      decode 0x03#8 = .command .decrypt := by decide

/-- StepRunsDecodedCommand: a script's offer line. -/
theorem witness_step_offer :
    let s := scripted [.offer 0x01#8 (some key1) none] State.reset
    s.rst = false ∧ s.busy = false ∧ s.cmdValid = false ∧ s.script = .offer 0x01#8 (some key1) none :: [] ∧
      decode 0x01#8 = .command .expandKey := by decide

/-- A state whose next step takes the byte `c`: presented on the port, or by a script's ISSUE or offer line. -/
def taking (c : Byte) (s : State) : List State :=
  [presenting c s, scripted [.issue c none none] s, scripted [.offer c none none] s]

theorem takes_of_taking {c : Byte} {s u : State} (hr : s.rst = false) (hb : s.busy = false) (hv : s.cmdValid = false)
    (hu : u ∈ taking c s) : TakesNext u c := by
  simp only [taking, List.mem_cons, List.not_mem_nil, or_false] at hu
  rcases hu with rfl | rfl | rfl
  · exact ⟨hr, hb, rfl⟩
  · exact ⟨hr, hb, by simp [presented, scripted, hv]⟩
  · exact ⟨hr, hb, by simp [presented, scripted, hv]⟩

/-- ReservedCommandRejected: the reserved byte 0x00, the first and the last of the others, from the port and from a line. -/
theorem witness_reserved :
    ∀ c ∈ [0x00#8, 0x04#8, 0xFF#8], (c = 0x00#8 ∨ 4 ≤ c.toNat) ∧ ∀ s ∈ taking c (keyed key1 0), TakesNext s c :=
  fun c hc => ⟨by revert c; decide, fun _ hs => takes_of_taking rfl rfl rfl hs⟩

/-- RejectionWritesErrAlone: a reserved byte, from the port and from a line. -/
theorem witness_rejection_reserved :
    decode 0xFF#8 = .reserved ∧ ∀ s ∈ taking 0xFF#8 (keyed key1 0), TakesNext s 0xFF#8 :=
  ⟨by decide, fun _ hs => takes_of_taking rfl rfl rfl hs⟩

/-- RejectionWritesErrAlone: each block command without a key, from the port and from a line. -/
theorem witness_rejection_noKey :
    ∀ c ∈ [0x02#8, 0x03#8], (decode c = .command .encrypt ∨ decode c = .command .decrypt) ∧
      ∀ s ∈ taking c State.reset, TakesNext s c ∧ s.keyValid = false := by
  intro c hc
  refine ⟨by revert c; decide, fun s hs => ⟨takes_of_taking rfl rfl rfl hs, ?_⟩⟩
  simp only [taking, List.mem_cons, List.not_mem_nil, or_false] at hs
  rcases hs with rfl | rfl | rfl <;> rfl

/-- BlockCommandNeedsKey, ExpandKeyTake, ExpandKeyRunsToCompletion, StartedCommandCompletesInItsCount for EXPAND_KEY. -/
theorem witness_ready_without_key : State.reset.ready = true ∧ State.reset.keyValid = false := by decide

/-- EncryptTake, DecryptTake, EncryptRunsToCompletion, DecryptRunsToCompletion, BlockRoundTripThroughPorts,
StartedCommandCompletesInItsCount for the block commands. -/
theorem witness_ready_with_key :
    Inv (keyed key1 plain1) ∧ (keyed key1 plain1).ready = true ∧ (keyed key1 plain1).keyValid = true ∧
      (keyed key1 plain1).rks = holdSchedule (expandKey (blk key1)) := ⟨inv_keyed _ _, rfl, rfl, rfl⟩

/-- CommandNotTakenUnlessReady: a busy core, and one under reset. -/
theorem witness_not_ready :
    (blockAt .encrypt plain1 0).ready = false ∧ ({ State.reset with rst := true } : State).ready = false := by
  decide +kernel

/-- ExpandKeyMicroStep: the first round, the last that goes on, and the completing one. -/
theorem witness_expandKey_micro :
    ∀ r ∈ [1, 9, 10], Inv (expandingAt key1 r) ∧ (expandingAt key1 r).opL = some .expandKey ∧
      (expandingAt key1 r).rnd.toNat = r := by
  intro r hr
  have h : 1 ≤ r ∧ r ≤ 10 := by
    simp only [List.mem_cons, List.not_mem_nil, or_false] at hr; omega
  exact ⟨inv_expandingAt key1 h.1 h.2, rfl, rnd_ofNat h.2⟩

/-- EncryptMicroStep, DecryptMicroStep: every round counter at the edge of a clause. -/
theorem witness_block_micro :
    ∀ r ∈ [0, 1, 9, 10], ∀ i ∈ [Instr.encrypt, .decrypt], Inv (blockAt i plain1 r) ∧ (blockAt i plain1 r).opL = some i ∧
      (blockAt i plain1 r).BlockInFlight ∧ (blockAt i plain1 r).rnd.toNat = r := by
  intro r hr i hi
  have h : r ≤ 10 := by simp only [List.mem_cons, List.not_mem_nil, or_false] at hr; omega
  have hi' : i = .encrypt ∨ i = .decrypt := by simpa using hi
  refine ⟨inv_blockAt (by rcases hi' with rfl | rfl <;> decide) plain1 h, rfl, ?_, rnd_ofNat h⟩
  rcases hi' with rfl | rfl
  · exact .inl rfl
  · exact .inr rfl

/-- StartedCommandCompletesInItsCount, UndisturbedStepsAreMicroSteps: none, some and all of what is left. -/
theorem witness_undisturbed_busy :
    Inv (blockAt .encrypt plain1 4) ∧ (blockAt .encrypt plain1 4).busy = true ∧ Undisturbed (blockAt .encrypt plain1 4) ∧
      remaining (blockAt .encrypt plain1 4) = 7 := ⟨inv_blockAt (by decide) _ (by decide), rfl, ⟨rfl, rfl, rfl⟩, rfl⟩

/-- UndisturbedStepsAreMicroSteps: an idle core. -/
theorem witness_undisturbed_idle : Undisturbed State.reset ∧ State.reset.busy = false := ⟨⟨rfl, rfl, rfl⟩, rfl⟩

/-- CommandHeldWhileBusy. -/
theorem witness_held :
    let s := presenting 0x02#8 (expandingAt key1 1)
    Inv s ∧ s.busy = true ∧ s.rst = false ∧ s.cmdValid = true :=
  ⟨inv_presenting _ (inv_expandingAt key1 (by decide) (by decide)), rfl, rfl, rfl⟩

/-- CommandHeldWhileBusy: a script's command line, with the command in flight at its first and at its last round. -/
theorem witness_held_line :
    ∀ r ∈ [1, 10], let s := scripted [.issue 0x02#8 none (some plain1), .wait] (expandingAt key1 r)
      Inv s ∧ s.busy = true ∧ s.rst = false ∧ s.cmdValid = false ∧
        s.script = .issue 0x02#8 none (some plain1) :: [.wait] := by
  intro r hr
  have h : 1 ≤ r ∧ r ≤ 10 := by simp only [List.mem_cons, List.not_mem_nil, or_false] at hr; omega
  exact ⟨inv_scripted _ (inv_expandingAt key1 h.1 h.2), rfl, rfl, rfl, rfl⟩

/-- DroppedCommandIssuesNothing. -/
theorem witness_dropped :
    let s := scripted [.offer 0x02#8 none (some plain1)] (expandingAt key1 1)
    Inv s ∧ s.rst = false ∧ s.busy = true ∧ s.cmdValid = false ∧
      s.script = .offer 0x02#8 none (some plain1) :: [] :=
  ⟨inv_scripted _ (inv_expandingAt key1 (by decide) (by decide)), rfl, rfl, rfl, rfl⟩

/-- WaitRunsCommandToCompletion: a busy and an idle core. -/
theorem witness_wait :
    let s := scripted [.wait] (blockAt .decrypt cipher1 10)
    let u := scripted [.wait] State.reset
    (Inv s ∧ s.rst = false ∧ s.cmdValid = false ∧ s.script = .wait :: [] ∧ s.busy = true) ∧
      (Inv u ∧ u.rst = false ∧ u.cmdValid = false ∧ u.script = .wait :: [] ∧ u.busy = false) :=
  ⟨⟨inv_scripted _ (inv_blockAt (by decide) _ (by decide)), rfl, rfl, rfl, rfl⟩,
    inv_scripted _ inv_reset, rfl, rfl, rfl, rfl⟩

/-- ResetEventClearsCore: the port, and the script's line; both with a command in flight. -/
theorem witness_resets :
    ResetsNext { blockAt .encrypt plain1 3 with rst := true } ∧ ResetsNext (scripted [.reset] (blockAt .encrypt plain1 3)) :=
  ⟨.inl rfl, .inr ⟨rfl, rfl⟩⟩

/-- StepKeepsInvariant: a step that answers a next state. -/
theorem witness_invariant_step : Inv (keyed key1 0) ∧ ∃ t, step (keyed key1 0) = .next t := ⟨inv_keyed _ _, _, rfl⟩

/-- UnspecifiedReadsFault: the two host reads, ST at ⊥, and a round key at ⊥ for each command, first and last round. -/
theorem witness_unspecified_reads :
    (ReadsDoutNext (scripted [.readDout] State.reset) ∧ (scripted [.readDout] State.reset).doutValid = false) ∧
    (ReadsRkNext (scripted [.readRk 10] State.reset) ∧ (scripted [.readRk 10] State.reset).keyValid = false) ∧
    (∀ r ∈ [1#4, 10#4], let s := { expandingAt key1 0 with rnd := r }
      s.opL = some .expandKey ∧ 1 ≤ s.rnd.toNat ∧ s.rnd.toNat ≤ 10 ∧ s.roundKey (s.rnd.toNat - 1) = none) ∧
    (∀ r ∈ [0#4, 10#4], let s := { State.reset with busy := true, opL := some .encrypt, rnd := r }
      s.BlockInFlight ∧ s.rnd.toNat ≤ 10 ∧ s.st.value = none ∧ s.roundKey s.rnd.toNat = none) := by
  refine ⟨⟨⟨rfl, rfl, rfl⟩, rfl⟩, ⟨⟨rfl, rfl, 10, rfl⟩, rfl⟩, by decide +kernel, ?_⟩
  intro r hr
  refine ⟨.inl rfl, ?_⟩
  revert r
  decide +kernel

/-- UnspecifiedReadsFault: a port whose valid bit is 1 over a register at ⊥, which only an unreachable state has. -/
theorem witness_port_reads_bottom :
    let s := scripted [.readDout] { State.reset with doutValid := true }
    let u := scripted [.readRk 0] { State.reset with keyValid := true }
    (ReadsDoutNext s ∧ s.doutValid = true ∧ s.dout.value = none) ∧
      (ReadsRkNext u ∧ u.keyValid = true ∧ ∃ r : Fin 11, (u.rks.get r).value = none) :=
  ⟨⟨⟨rfl, rfl, rfl⟩, rfl, rfl⟩, ⟨rfl, rfl, 0, rfl⟩, rfl, 10, rfl⟩

/-- StepsStopOnlyOnInvalidReads: a valid read, and no read at all. -/
theorem witness_valid_reads :
    (Inv (scripted [.readDout] withResult) ∧
      ¬(ReadsDoutNext (scripted [.readDout] withResult) ∧ (scripted [.readDout] withResult).doutValid = false) ∧
      ¬(ReadsRkNext (scripted [.readDout] withResult) ∧ (scripted [.readDout] withResult).keyValid = false)) ∧
    (Inv State.reset ∧ ¬ReadsDoutNext State.reset ∧ ¬ReadsRkNext State.reset) :=
  ⟨⟨inv_scripted _ inv_withResult, nofun, nofun⟩, inv_reset, nofun, by rintro ⟨-, -, r, h⟩; cases h⟩

/-- NoRunReadsBottom: a run that stops with each of the two faults, from states that meet the invariant. -/
theorem witness_run_stops :
    (Inv (scripted [.readDout] State.reset) ∧
      Host.Core.run core 1 (scripted [.readDout] State.reset) = .fault .doutNotValid) ∧
    (Inv (scripted [.readRk 0] (expandingAt key1 1)) ∧
      Host.Core.run core 1 (scripted [.readRk 0] (expandingAt key1 1)) = .fault .rkOutNotValid) :=
  ⟨⟨inv_scripted _ inv_reset, rfl⟩, inv_scripted _ (inv_expandingAt key1 (by decide) (by decide)), rfl⟩

/-- ReadsReturnOutputs: the three lines, round keys 0 and 10. -/
theorem witness_reads :
    ∀ l ∈ [HostLine.readStatus, .readDout, .readRk 0, .readRk 10], let s := scripted [l] withResult
      Inv s ∧ s.rst = false ∧ s.cmdValid = false ∧ s.script.head? = some l ∧ s.doutValid = true ∧ s.keyValid = true :=
  fun _ _ => ⟨inv_scripted _ inv_withResult, rfl, rfl, rfl, rfl, rfl⟩

/-- BusyCoreIgnoresInputPorts: no script line and a command presented on one side; a WAIT and a pass line; a reset. -/
theorem witness_busy_ports :
    ((blockAt .encrypt plain1 5).busy = true ∧ (blockAt .encrypt plain1 5).script = []) ∧
    (∀ l ∈ [HostLine.wait, .pass], (scripted [l] (blockAt .encrypt plain1 5)).busy = true ∧
      false = (scripted [l] (blockAt .encrypt plain1 5)).cmdValid) ∧
    (({ blockAt .encrypt plain1 5 with rst := true } : State).busy = true) :=
  ⟨⟨rfl, rfl⟩, fun _ _ => ⟨rfl, rfl⟩, rfl⟩

/-- A taken command, each of the four kinds, and what the next state is. -/
theorem take_next (c : Byte) (s : State) (hb : s.busy = false) (hr : s.rst = false) :
    TakesNext (presenting c s) c ∧ ¬ResetsNext (presenting c s) ∧
      ∃ t, step (presenting c s) = .next t ∧ TakeCase (presenting c s) t := by
  refine ⟨⟨hr, hb, rfl⟩, ?_, ?_⟩
  · rintro (h | ⟨h, -⟩)
    · exact absurd (hr.symm.trans h) (by decide)
    · cases h
  · rw [step_of_command (s := presenting c s) hr rfl, coreEvent_of_command (s := presenting c s) hb rfl]
    exact issueEvent_of_ready (ready_iff.2 ⟨hb, hr⟩)

/-- OnlyExpandKeyWritesSchedule: a step changes RKS; KeyValidWrittenByItsEvents: EXPAND_KEY completes. -/
theorem witness_schedule_written :
    ∃ t, step (expandingAt key1 10) = .next t ∧ t.rks ≠ (expandingAt key1 10).rks ∧ ¬ResetsNext (expandingAt key1 10) ∧
      (expandingAt key1 10).busy = true ∧ (expandingAt key1 10).opL = some .expandKey ∧ t.busy = false := by
  refine ⟨(nextState? (step (expandingAt key1 10))).getD State.reset, ?_, ?_, ?_, rfl, rfl, ?_⟩
  · rw [step_of_no_line rfl rfl rfl, coreEvent_of_busy rfl]; rfl
  · decide +kernel
  · rintro (h | ⟨-, h⟩) <;> cases h
  · decide +kernel

/-- KeyValidWrittenByItsEvents, DoutValidWrittenByItsEvents, ErrWrittenByTakesAndReset: a reset. -/
theorem witness_written_reset :
    ∃ t, step (scripted [.reset] withResult) = .next t ∧ ResetsNext (scripted [.reset] withResult) :=
  ⟨_, rfl, .inr ⟨rfl, rfl⟩⟩

/-- The same three: a take of EXPAND_KEY, and of each block command with and without a key, and of a reserved byte. -/
theorem witness_written_take :
    ∀ c ∈ [0x01#8, 0x02#8, 0x03#8, 0x81#8], ∀ s ∈ [State.reset, withResult],
      TakesNext (presenting c s) c ∧ ¬ResetsNext (presenting c s) ∧ ∃ t, step (presenting c s) = .next t := by
  intro c _ s hs
  have h : s.busy = false ∧ s.rst = false := by
    rcases List.mem_cons.1 hs with rfl | hs
    · exact ⟨rfl, rfl⟩
    · rw [List.mem_singleton.1 hs]; exact ⟨rfl, rfl⟩
  obtain ⟨h1, h2, t, ht, -⟩ := take_next c s h.1 h.2
  exact ⟨h1, h2, t, ht⟩

/-- The valid keys of those states: one has none, the other one. -/
theorem witness_written_keys : State.reset.keyValid = false ∧ withResult.keyValid = true := ⟨rfl, rfl⟩

/-- DoutValidWrittenByItsEvents: a block command completes. -/
theorem witness_dout_written :
    ∃ t, step (blockAt .encrypt plain1 10) = .next t ∧ ¬ResetsNext (blockAt .encrypt plain1 10) ∧
      (blockAt .encrypt plain1 10).busy = true ∧ (blockAt .encrypt plain1 10).BlockInFlight ∧ t.busy = false := by
  refine ⟨(nextState? (step (blockAt .encrypt plain1 10))).getD State.reset, ?_, ?_, rfl, .inl rfl, ?_⟩
  · rw [step_of_no_line rfl rfl rfl, coreEvent_of_busy rfl]; rfl
  · rintro (h | ⟨-, h⟩) <;> cases h
  · decide +kernel

/-- The same three, what no event writes: a step without a take, a completion or a reset. -/
theorem witness_nothing_written :
    (∃ t, step withResult = .next t) ∧ ¬ResetsNext withResult ∧ (∀ c, ¬TakesNext withResult c) ∧ withResult.busy = false := by
  refine ⟨⟨_, rfl⟩, ?_, ?_, rfl⟩
  · rintro (h | ⟨-, h⟩) <;> cases h
  · rintro c ⟨-, -, h⟩; cases h

/-- Mul2Laws: a preimage (R71's mul2(0x8D) = 0x01), and the ends of the range of n. -/
theorem witness_mul2 : mul2 0x8D#8 = 0x01#8 ∧ (1 ≤ 1 ∧ 1 < 51) ∧ (1 ≤ 50 ∧ 50 < 51) := by decide

/-- SboxIsInverseThenAffine: R79's example. -/
theorem witness_sbox : (0x53#8 : Byte) ≠ 0x00#8 ∧ gfInverse 0x53#8 = 0xCA#8 ∧ SBOX 0x53#8 = 0xED#8 := by decide +kernel

/-- RoundConstantsFollowRecurrence and ScheduleGroups: the ends of the ranges. -/
theorem witness_ranges : (1 ≤ 1 ∧ 1 ≤ 9) ∧ (1 ≤ 9 ∧ 9 ≤ 9) ∧ 0 < 10 ∧ 9 < 10 ∧ (1 : Fin 4) ≠ 0 ∧ (3 : Fin 4) ≠ 0 := by
  decide

end Sys2Proof.Tests
end

section
/-!
SUPPORT. Which event a step performs (spec/20_memory.md R52), each case with what enables it, and what each micro-step
writes (R99, R120, R142).
-/

namespace Sys2Proof.Machine

open Sys2Proof

/-! Which event a step performs. -/

/-- R170: a Reset event, from the port or from the script's line. -/
theorem step_of_resets {s : State} (h : ResetsNext s) : ∃ u, SameRegisters s u ∧ step s = .next (resetEvent u) := by
  cases hr : s.rst with
  | true => exact ⟨s, .refl s, step_of_rst hr⟩
  | false =>
    obtain ⟨hv, hs⟩ := h.resolve_left (by simp [hr])
    obtain ⟨rest, hs⟩ := List.head?_eq_some_iff.1 hs
    exact ⟨_, registers_takeLine s rest, step_of_line hr hv hs⟩

theorem SameRegisters.recordRead {s u : State} (h : SameRegisters s u) (v : Reading) :
    SameRegisters s (recordRead v u) :=
  ⟨h.st, h.rks, h.dout, h.opL, h.rnd, h.busy, h.keyValid, h.doutValid, h.err⟩

/-- A step of an idle core without a reset and without a take leaves the registers alone: no command line is next, and
the other lines perform no event. -/
theorem step_of_no_event {s t : State} (hr : ¬ResetsNext s) (hb : s.busy = false) (hn : ∀ c, ¬TakesNext s c)
    (h : step s = .next t) : SameRegisters s t := by
  have hrst : s.rst = false := by simpa using fun h => hr (.inl h)
  have hp : presented s = none := Option.eq_none_iff_forall_ne_some.2 fun c hc => hn c ⟨hrst, hb, hc⟩
  have hv : s.cmdValid = false := by
    cases hv : s.cmdValid with
    | false => rfl
    | true => simp [presented, hv] at hp
  cases hs : s.script with
  | nil =>
    rw [step_of_no_line hrst hv hs, coreEvent_of_quiet hb hv] at h
    cases h
    exact .refl s
  | cons line rest =>
    rw [step_of_line hrst hv hs] at h
    have hu := registers_takeLine s rest
    cases line with
    | issue c k d => simp [presented, hv, hs] at hp
    | offer c k d => simp [presented, hv, hs] at hp
    | reset => exact absurd (.inr ⟨hv, by simp [hs]⟩) hr
    | pass =>
      cases (coreEvent_of_quiet (s := { s with script := rest }) hb hv).symm.trans h
      exact hu
    | wait =>
      rw [runLine, if_neg (by simp [hb])] at h
      cases h
      exact hu
    | readStatus => cases h; exact hu.recordRead _
    | readDout =>
      simp only [runLine] at h
      split at h <;> cases h
      exact hu.recordRead _
    | readRk r =>
      simp only [runLine] at h
      split at h <;> cases h
      exact hu.recordRead _

/-- A step that is a reset answers the state of a Reset event. -/
theorem eq_resetEvent_of_resets {s t : State} (hr : ResetsNext s) (h : step s = .next t) :
    ∃ u, SameRegisters s u ∧ t = resetEvent u := by
  obtain ⟨u, hu, hs⟩ := step_of_resets hr
  cases hs.symm.trans h
  exact ⟨u, hu, rfl⟩

/-- A step that is the take of `c` answers one of the take's cases. -/
theorem takeCase_of_takes {s t : State} {c : Byte} (hc : TakesNext s c) (h : step s = .next t) :
    ∃ u, SameRegisters s u ∧ u.cmd = c ∧ TakeCase u t := by
  obtain ⟨u, hu, hcmd, -, hready, -, hs⟩ := step_of_takes hc
  obtain ⟨t', ht', htake⟩ := issueEvent_of_ready hready
  cases (hs.trans ht').symm.trans h
  exact ⟨u, hu, hcmd, htake⟩

/-- What a step that answers a next state can do: a reset, a take, or, when it is neither, a micro-step or nothing; `u` is
`s` after the host's part of the step. A busy step that only reads an output stands under `quiet`. -/
inductive StepEvent (s t : State) : Prop
  | reset (hr : ResetsNext s) (u : State) (hu : SameRegisters s u) (ht : t = resetEvent u)
  | micro (hr : ¬ResetsNext s) (hn : ∀ c, ¬TakesNext s c) (hb : s.busy = true) (u : State) (hu : SameRegisters s u)
      (ht : microStep u = .next t)
  | take (hr : ¬ResetsNext s) (u : State) (hc : TakesNext s u.cmd) (hu : SameRegisters s u) (ht : TakeCase u t)
  | quiet (hr : ¬ResetsNext s) (hn : ∀ c, ¬TakesNext s c) (hu : SameRegisters s t)

/-- Every step that answers a next state is one of the four. -/
theorem step_event {s t : State} (h : step s = .next t) : StepEvent s t := by
  by_cases hr : ResetsNext s
  · obtain ⟨u, hu, ht⟩ := eq_resetEvent_of_resets hr h
    exact .reset hr u hu ht
  by_cases hc : ∃ c, TakesNext s c
  · obtain ⟨c, hc⟩ := hc
    obtain ⟨u, hu, rfl, htake⟩ := takeCase_of_takes hc h
    exact .take hr u hc hu htake
  · rw [not_exists] at hc
    cases step_next h with
    | reset hr' => exact absurd hr' hr
    | micro _ hb u hu ht => exact .micro hr hc hb u hu ht
    | take _ hb => exact .quiet hr hc (step_of_no_event hr hb hc h)
    | quiet hu => exact .quiet hr hc hu

/-! What a micro-step writes. -/

/-- What a micro-step can do: a round of EXPAND_KEY (R99) or of a block command (R120, R142), that goes on or is the
last. -/
inductive MicroCase (s t : State) : Prop
  | expandRound (ho : s.opL = some .expandKey) (h1 : 1 ≤ s.rnd.toNat) (h9 : s.rnd.toNat ≤ 9) (prev : Block)
      (hp : s.roundKey (s.rnd.toNat - 1) = some prev)
      (ht : t = { s.writeRoundKey s.rnd.toNat (keyRound prev s.rnd.toNat) with rnd := s.rnd + 1#4 })
  | expandDone (ho : s.opL = some .expandKey) (h10 : s.rnd.toNat = 10) (prev : Block) (hp : s.roundKey 9 = some prev)
      (ht : t = completeExpand (s.writeRoundKey 10 (keyRound prev 10)))
  | blockRound (hb : s.BlockInFlight) (b : Block) (r : BitVec 4) (hr : r.toNat ≤ 10) (ht : t = nextRound b r s)
  | blockDone (hb : s.BlockInFlight) (b : Block) (ht : t = completeBlock b s)

/-- Every micro-step that answers a next state is one of the four. -/
theorem microStep_case {s t : State} (h : microStep s = .next t) : MicroCase s t := by
  rcases microStep_next h with ⟨ho, h⟩ | ⟨ho, h⟩ | ⟨ho, h⟩
  · obtain ⟨h1, -, prev, hp, ⟨h10, ht⟩ | ⟨h9, ht⟩⟩ := microExpandKey_next h
    · exact .expandDone ho h10 prev (by simpa [h10] using hp) ht
    · exact .expandRound ho h1 (by omega) prev hp ht
  · obtain ⟨-, b, k, -, -, ⟨-, ht⟩ | ⟨-, h9, ht⟩ | ⟨-, ht⟩⟩ := microEncrypt_next h
    · exact .blockRound (.inl ho) _ _ (by decide) ht
    · exact .blockRound (.inl ho) _ _ (by bv_omega) ht
    · exact .blockDone (.inl ho) _ ht
  · obtain ⟨-, b, k, -, -, ⟨-, ht⟩ | ⟨h1, h9, ht⟩ | ⟨-, ht⟩⟩ := microDecrypt_next h
    · exact .blockRound (.inr ho) _ _ (by decide) ht
    · exact .blockRound (.inr ho) _ _ (by bv_omega) ht
    · exact .blockDone (.inr ho) _ ht

end Sys2Proof.Machine
end

section
/-!
SUPPORT. The invariant of Safety.lean: what establishes it, and that every event keeps it (spec/10_state.md R26, R27, R30,
R31).
-/

namespace Sys2Proof.Machine

open Sys2Proof

/-- A block command is ENCRYPT or DECRYPT, so it is not EXPAND_KEY. -/
theorem State.BlockInFlight.not_expandKey {s : State} (h : s.BlockInFlight) : s.opL ≠ some .expandKey := by
  rcases h with h | h <;> simp [h]

theorem State.BlockInFlight.ne_none {s : State} (h : s.BlockInFlight) : s.opL ≠ none := by
  rcases h with h | h <;> simp [h]

/-- RND within 0..10 is in the range of a block command. -/
theorem State.BlockInFlight.roundInRange {s : State} (h : s.BlockInFlight) (hr : s.rnd.toNat ≤ 10) : s.RoundInRange := by
  rcases h with h | h <;> simpa [State.RoundInRange, h] using hr

theorem State.roundInRange_of_none {s : State} (h : s.opL = none) (hr : s.rnd = 0#4) : s.RoundInRange := by
  simpa [State.RoundInRange, h] using hr

theorem State.roundInRange_of_expandKey {s : State} (h : s.opL = some .expandKey) :
    s.RoundInRange ↔ 1 ≤ s.rnd.toNat ∧ s.rnd.toNat ≤ 10 := by
  simp [State.RoundInRange, h]

/-- The invariant speaks of the registers alone. -/
theorem Inv.of_sameRegisters {s t : State} (hi : Inv s) (h : SameRegisters s t) : Inv t := by
  obtain ⟨hst, hrks, hdout, hopL, hrnd, hbusy, hkv, hdv, -⟩ := h
  cases s
  cases t
  subst hst hrks hdout hopL hrnd hbusy hkv hdv
  exact ⟨hi.busy_iff, hi.round, hi.key, hi.expanding, hi.block, hi.result⟩

/-- An idle core meets the invariant when its valid bits speak the truth. -/
theorem Inv.of_idle {s : State} (hb : s.busy = false) (ho : s.opL = none) (hr : s.rnd = 0#4)
    (hkey : s.keyValid = true → ∃ k, s.rks = holdSchedule (expandKey k))
    (hdout : s.doutValid = true → s.dout.written = true) : Inv s where
  busy_iff := by simp [hb, ho]
  round := State.roundInRange_of_none ho hr
  key := hkey
  expanding h := by simp [ho] at h
  block h := absurd ho h.ne_none
  result := hdout

/-- A core with a block command in flight meets the invariant. -/
theorem Inv.of_block {s : State} (hb : s.busy = true) (ho : s.BlockInFlight) (hr : s.rnd.toNat ≤ 10)
    (hkv : s.keyValid = true) (hkey : ∃ k, s.rks = holdSchedule (expandKey k)) (hdv : s.doutValid = false)
    (hst : s.st.written = true) : Inv s where
  busy_iff := by simp [hb, ho.ne_none]
  round := ho.roundInRange hr
  key _ := hkey
  expanding h := absurd h ho.not_expandKey
  block _ := ⟨hkv, hdv, hst⟩
  result h := by simp [hdv] at h

/-- A core with EXPAND_KEY in flight meets the invariant. -/
theorem Inv.of_expandKey {s : State} (hb : s.busy = true) (ho : s.opL = some .expandKey) (h1 : 1 ≤ s.rnd.toNat)
    (h10 : s.rnd.toNat ≤ 10) (hkv : s.keyValid = false)
    (hkeys : ∃ k, ∀ r, r < s.rnd.toNat → s.roundKey r = some (roundKeyOf k r))
    (hdout : s.doutValid = true → s.dout.written = true) : Inv s where
  busy_iff := by simp [hb, ho]
  round := (State.roundInRange_of_expandKey ho).2 ⟨h1, h10⟩
  key h := by simp [hkv] at h
  expanding _ := ⟨hkv, hkeys⟩
  block h := absurd ho h.not_expandKey
  result := hdout

/-- R170: a Reset event leads to a state that meets the invariant, whatever it interrupts. -/
theorem inv_resetEvent (s : State) : Inv (resetEvent s) :=
  .of_idle rfl rfl rfl nofun nofun

/-- R96, R99: the round key that a micro-step of EXPAND_KEY writes is the next one of the key whose first round keys RKS
holds. -/
theorem roundKeys_write_keyRound {s : State} {key prev : Block} {n : Nat} (h1 : 1 ≤ n) (h10 : n ≤ 10)
    (hkeys : ∀ r, r < n → s.roundKey r = some (roundKeyOf key r)) (hp : s.roundKey (n - 1) = some prev) (r : Nat)
    (hr : r < n + 1) : (s.writeRoundKey n (keyRound prev n)).roundKey r = some (roundKeyOf key r) := by
  rcases Nat.lt_succ_iff_lt_or_eq.1 hr with hlt | rfl
  · rw [roundKey_write_other s (by omega), hkeys r hlt]
  · obtain ⟨m, rfl⟩ := Nat.exists_eq_add_of_le' h1
    have hprev : prev = roundKeyOf key m := Option.some.inj (hp.symm.trans (hkeys m (by omega)))
    rw [roundKey_write_same s (by omega), hprev, roundKeyOf]

theorem Inv.of_microStep {s t : State} (hi : Inv s) (h : microStep s = .next t) : Inv t := by
  cases microStep_case h with
  | expandRound ho h1 h9 prev hp ht =>
    subst ht
    obtain ⟨hkv, key, hkeys⟩ := hi.expanding ho
    have hrnd : (s.rnd + 1#4).toNat = s.rnd.toNat + 1 := by bv_omega
    refine .of_expandKey (hi.busy_iff.2 (by simp [ho])) ho (hrnd ▸ by omega) (hrnd ▸ by omega) hkv ⟨key, ?_⟩
      hi.result
    exact fun r hr => roundKeys_write_keyRound h1 (by omega) hkeys hp r (hrnd ▸ hr)
  | expandDone ho h10 prev hp ht =>
    subst ht
    obtain ⟨-, key, hkeys⟩ := hi.expanding ho
    rw [h10] at hkeys
    refine .of_idle rfl rfl rfl (fun _ => ⟨key, ?_⟩) hi.result
    refine eq_holdSchedule (s := s.writeRoundKey 10 (keyRound prev 10)) fun r => ?_
    rw [expandKey_get]
    exact roundKeys_write_keyRound (by decide) (by decide) hkeys hp r.val r.isLt
  | blockRound hb b r hr ht =>
    subst ht
    obtain ⟨hkv, hdv, -⟩ := hi.block hb
    exact .of_block (hi.busy_iff.2 hb.ne_none) hb hr hkv (hi.key hkv) hdv rfl
  | blockDone hb b ht =>
    subst ht
    exact .of_idle rfl rfl rfl hi.key fun _ => rfl

/-- R53: a take keeps the invariant: it starts its command or writes ERR alone. -/
theorem Inv.of_take {s t : State} (hi : Inv s) (h : TakeCase s t) : Inv t := by
  have rejected : ∀ code, Inv (raiseError code (consumeCommand s)) := fun code =>
    ⟨hi.busy_iff, hi.round, hi.key, hi.expanding, hi.block, hi.result⟩
  cases h with
  | expandKey _ ht =>
    subst ht
    refine .of_expandKey rfl rfl (by simp) (by simp) rfl ⟨s.keyOperand, fun r hr => ?_⟩ hi.result
    obtain rfl : r = 0 := Nat.lt_one_iff.1 hr
    exact (roundKey_fin _ 0).trans (by simp [roundKeyOf])
  | encrypt _ hk ht => subst ht; exact .of_block rfl (.inl rfl) (by simp) hk (hi.key hk) rfl rfl
  | decrypt _ hk ht => subst ht; exact .of_block rfl (.inr rfl) (by simp) hk (hi.key hk) rfl rfl
  | noKey _ _ ht => subst ht; exact rejected _
  | reservedCmd _ ht => subst ht; exact rejected _

theorem Inv.of_step {s t : State} (hi : Inv s) (h : step s = .next t) : Inv t := by
  cases step_next h with
  | reset _ u _ ht => exact ht ▸ inv_resetEvent u
  | micro _ _ u hu ht => exact (hi.of_sameRegisters hu).of_microStep ht
  | take _ _ u hu ht => exact (hi.of_sameRegisters hu).of_take ht
  | quiet hu => exact hi.of_sameRegisters hu

/-- Settles O27: by the cases of what a step can do; the round keys of EXPAND_KEY by `roundKeys_write_keyRound`. -/
theorem stepKeepsInvariant : Obligations.StepKeepsInvariant := fun _ _ hi h => hi.of_step h

/-- Settles O26: the state after reset is that of a Reset event. -/
theorem resetMeetsInvariant : Obligations.ResetMeetsInvariant := inv_resetEvent State.reset

end Sys2Proof.Machine
end

section
/-!
SUPPORT. Progress: from a state that meets the invariant a step stops only on a host's invalid read (spec/60_exceptions.md
R157).
-/

namespace Sys2Proof.Machine

open Sys2Proof

/-- The next step is a host's read of an output whose valid bit is 0, which R157 makes a fault. -/
def InvalidRead (s : State) : Prop :=
  (ReadsDoutNext s ∧ s.doutValid = false) ∨ (ReadsRkNext s ∧ s.keyValid = false)

/-- R157: READ DOUT while STATUS.DOUT_VALID = 0. -/
theorem step_of_invalid_readDout {s : State} (h : ReadsDoutNext s) (hv : s.doutValid = false) :
    step s = .fault .doutNotValid := by
  obtain ⟨hr, hcv, hs⟩ := h
  obtain ⟨rest, hs⟩ := List.head?_eq_some_iff.1 hs
  simp [step_of_line hr hcv hs, runLine, State.doutPort, hv]

/-- R157: READ RK while STATUS.KEY_VALID = 0. -/
theorem step_of_invalid_readRk {s : State} (h : ReadsRkNext s) (hv : s.keyValid = false) :
    step s = .fault .rkOutNotValid := by
  obtain ⟨hr, hcv, r, hs⟩ := h
  obtain ⟨rest, hs⟩ := List.head?_eq_some_iff.1 hs
  simp [step_of_line hr hcv hs, runLine, State.rkOutPort, hv]

/-- While STATUS.KEY_VALID = 1 every round key is readable. -/
theorem Inv.roundKey_of_keyValid {s : State} (hi : Inv s) (hk : s.keyValid = true) {r : Nat} (hr : r ≤ 10) :
    ∃ k, s.roundKey r = some k := by
  obtain ⟨key, hrks⟩ := hi.key hk
  exact ⟨_, roundKey_of_holdSchedule hrks ⟨r, by omega⟩⟩

/-- R38: a micro-step of a block command reads ST and one round key, which hold values. -/
theorem Inv.block_reads {s : State} (hi : Inv s) (hb : s.BlockInFlight) (hr : s.rnd.toNat ≤ 10) :
    ∃ b k, s.st.value = some b ∧ s.roundKey s.rnd.toNat = some k := by
  obtain ⟨hkv, -, hst⟩ := hi.block hb
  obtain ⟨k, hk⟩ := hi.roundKey_of_keyValid hkv hr
  exact ⟨_, k, value_eq_some.2 (eq_hold_of_written hst), hk⟩

/-- A command in flight takes its micro-step: RND is in range and the registers it reads hold values. -/
theorem Inv.microStep_answers {s : State} (hi : Inv s) (hb : s.busy = true) : ∃ t, microStep s = .next t := by
  obtain ⟨i, ho⟩ := Option.ne_none_iff_exists'.1 (hi.busy_iff.1 hb)
  have hr := hi.round
  simp only [State.RoundInRange, ho] at hr
  cases i with
  | expandKey =>
    obtain ⟨h1, h10⟩ := hr
    obtain ⟨-, key, hkeys⟩ := hi.expanding ho
    exact ⟨_, by rw [microStep, ho]; exact microExpandKey_of h1 h10 (hkeys _ (by omega))⟩
  | encrypt =>
    obtain ⟨b, k, hst, hk⟩ := hi.block_reads (.inl ho) hr
    exact ⟨_, by rw [microStep, ho]; exact microEncrypt_of hr hst hk⟩
  | decrypt =>
    obtain ⟨b, k, hst, hk⟩ := hi.block_reads (.inr ho) hr
    exact ⟨_, by rw [microStep, ho]; exact microDecrypt_of hr hst hk⟩

/-- The core's event always answers: the micro-step, the take, or nothing. -/
theorem Inv.coreEvent_answers {s : State} (hi : Inv s) (hr : s.rst = false) : ∃ t, coreEvent s = .next t := by
  cases hb : s.busy with
  | true => exact coreEvent_of_busy hb ▸ hi.microStep_answers hb
  | false =>
    cases hv : s.cmdValid with
    | true =>
      obtain ⟨t, ht, -⟩ := issueEvent_of_ready (ready_iff.2 ⟨hb, hr⟩)
      exact ⟨t, (coreEvent_of_command hb hv).trans ht⟩
    | false => exact ⟨s, coreEvent_of_quiet hb hv⟩

/-- R36: while STATUS.DOUT_VALID = 1 port dout shows DOUT. -/
theorem Inv.doutPort_of_doutValid {s : State} (hi : Inv s) (hv : s.doutValid = true) :
    s.doutPort = .ok (packBlock s.dout.bits) := by
  simp [State.doutPort, hv, BlockReg.value, hi.result hv]

/-- R36: while STATUS.KEY_VALID = 1 port rk_out shows the schedule of a key. -/
theorem Inv.rkOutPort_of_keyValid {s : State} (hi : Inv s) (hv : s.keyValid = true) :
    ∃ key, s.rks = holdSchedule (expandKey key) ∧ s.rkOutPort = .ok (packSchedule (expandKey key)) := by
  obtain ⟨key, hrks⟩ := hi.key hv
  exact ⟨key, hrks, by simp [State.rkOutPort, hv, schedule_of_holdSchedule hrks]⟩

/-- A script line answers unless it reads an output whose valid bit is 0. -/
theorem Inv.runLine_answers {s : State} (hi : Inv s) (hr : s.rst = false) {line : HostLine}
    (hd : line = .readDout → s.doutValid = true) (hk : ∀ r, line = .readRk r → s.keyValid = true) :
    ∃ t, runLine line s = .next t := by
  have core : ∀ u : State, SameRegisters s u → u.rst = s.rst → ∃ t, coreEvent u = .next t := fun u hu hur =>
    (hi.of_sameRegisters hu).coreEvent_answers (hur.trans hr)
  have present : ∀ c k d, SameRegisters s (presentCommand c k d s) := fun _ _ _ =>
    ⟨rfl, rfl, rfl, rfl, rfl, rfl, rfl, rfl, rfl⟩
  cases line with
  | issue c k d => exact core _ (present c k d) rfl
  | offer c k d =>
    rw [runLine]
    split
    · exact core (consumeCommand _) ⟨rfl, rfl, rfl, rfl, rfl, rfl, rfl, rfl, rfl⟩ rfl
    · exact core _ (present c k d) rfl
  | wait =>
    rw [runLine]
    split
    · exact core _ (registers_takeLine s _) rfl
    · exact ⟨_, rfl⟩
  | pass => exact core s (.refl s) rfl
  | readStatus => exact ⟨_, rfl⟩
  | readDout => exact ⟨_, by rw [runLine, hi.doutPort_of_doutValid (hd rfl)]⟩
  | readRk r =>
    obtain ⟨key, -, hp⟩ := hi.rkOutPort_of_keyValid (hk r rfl)
    exact ⟨_, by rw [runLine, hp]⟩
  | reset => exact ⟨_, rfl⟩

/-- Progress: from a state that meets the invariant a step answers, unless it is an invalid read. -/
theorem Inv.step_answers {s : State} (hi : Inv s) (h : ¬InvalidRead s) : ∃ t, step s = .next t := by
  cases hr : s.rst with
  | true => exact ⟨_, step_of_rst hr⟩
  | false =>
    cases hv : s.cmdValid with
    | true => exact step_of_command hr hv ▸ hi.coreEvent_answers hr
    | false =>
      cases hs : s.script with
      | nil => exact step_of_no_line hr hv hs ▸ hi.coreEvent_answers hr
      | cons line rest =>
        rw [step_of_line hr hv hs]
        refine (hi.of_sameRegisters (registers_takeLine s rest)).runLine_answers hr ?_ ?_
        · rintro rfl
          simpa using fun hd => h (.inl ⟨⟨hr, hv, by simp [hs]⟩, hd⟩)
        · rintro r rfl
          simpa using fun hk => h (.inr ⟨⟨hr, hv, r, by simp [hs]⟩, hk⟩)

/-- Settles O29: progress of the core's event and of every script line. -/
theorem stepsStopOnlyOnInvalidReads : Obligations.StepsStopOnlyOnInvalidReads :=
  fun _ hi hd hk => hi.step_answers (not_or.2 ⟨hd, hk⟩)

/-- From a state that meets the invariant a step answers one that meets it too, or is an invalid READ line's fault. -/
theorem Inv.step_outcome {s : State} (hi : Inv s) :
    (∃ t, step s = .next t ∧ Inv t) ∨ step s = .fault .doutNotValid ∨ step s = .fault .rkOutNotValid := by
  by_cases h : InvalidRead s
  · rcases h with ⟨h, hv⟩ | ⟨h, hv⟩
    · exact .inr (.inl (step_of_invalid_readDout h hv))
    · exact .inr (.inr (step_of_invalid_readRk h hv))
  · obtain ⟨t, ht⟩ := hi.step_answers h
    exact .inl ⟨t, ht, hi.of_step ht⟩

/-- Settles O30: by induction on the number of steps, the invariant holding along the run. -/
theorem noRunReadsBottom : Obligations.NoRunReadsBottom := by
  intro s n f hi h
  induction n generalizing s with
  | zero => rw [run_zero] at h; cases h
  | succ n ih =>
    rcases hi.step_outcome with ⟨t, ht, hit⟩ | hf | hf
    · exact ih t hit ((run_succ ht n).symm.trans h)
    · cases (run_fault hf n).symm.trans h; exact .inl rfl
    · cases (run_fault hf n).symm.trans h; exact .inr rfl

end Sys2Proof.Machine
end

section
/-!
SUPPORT. Which events write RKS, STATUS.KEY_VALID, STATUS.DOUT_VALID with
DOUT, and STATUS.ERR; the registers after reset and the port status
(spec/10_state.md R24, R25, R28, R30 to R33, R38).
-/

namespace Sys2Proof.Machine

open Sys2Proof

/-! The events of a step, each by what enables it. -/

theorem SameRegisters.blockInFlight {s u : State} (h : SameRegisters s u) : u.BlockInFlight ↔ s.BlockInFlight := by
  simp [State.BlockInFlight, h.opL]

/-- A step after which STATUS.BUSY has fallen without a reset is the last micro-step of the command in flight. -/
theorem completion_of_busy_falls {s t : State} (hr : ¬ResetsNext s) (hb : s.busy = true) (hd : t.busy = false)
    (h : step s = .next t) :
    (s.opL = some .expandKey ∧ t.keyValid = true) ∨ (s.BlockInFlight ∧ t.doutValid = true ∧ t.dout = t.st) := by
  cases step_event h with
  | reset hr' => exact absurd hr' hr
  | take _ u hc => simp [hc.2.1] at hb
  | quiet _ _ hu => simp [hu.busy, hb] at hd
  | micro _ _ _ u hu ht =>
    have hbu : u.busy = true := hu.busy.trans hb
    cases microStep_case ht with
    | expandRound _ _ _ _ _ ht => simp [ht, hbu] at hd
    | blockRound _ _ _ _ ht => simp [ht, hbu] at hd
    | expandDone ho _ _ _ ht => exact .inl ⟨hu.opL ▸ ho, by simp [ht]⟩
    | blockDone ho _ ht => exact .inr ⟨hu.blockInFlight.1 ho, by simp [ht], by simp [ht]⟩

/-! RKS. -/

/-- Settles O36: every other event leaves RKS as it was. -/
theorem onlyExpandKeyWritesSchedule : Obligations.OnlyExpandKeyWritesSchedule := by
  intro s t h hne
  cases step_event h with
  | reset hr => exact .inl hr
  | quiet _ _ hu => exact absurd hu.rks hne
  | take _ u hc hu ht =>
    cases ht with
    | expandKey hcmd => exact .inr (.inl (hcmd ▸ hc))
    | encrypt _ _ ht => exact absurd (by simp [ht, hu.rks]) hne
    | decrypt _ _ ht => exact absurd (by simp [ht, hu.rks]) hne
    | noKey _ _ ht => exact absurd (by simp [ht, hu.rks]) hne
    | reservedCmd _ ht => exact absurd (by simp [ht, hu.rks]) hne
  | micro _ _ hb u hu ht =>
    cases microStep_case ht with
    | expandRound ho => exact .inr (.inr ⟨hb, hu.opL ▸ ho⟩)
    | expandDone ho => exact .inr (.inr ⟨hb, hu.opL ▸ ho⟩)
    | blockRound _ _ _ _ ht => exact absurd (by simp [ht, hu.rks]) hne
    | blockDone _ _ ht => exact absurd (by simp [ht, hu.rks]) hne

/-! STATUS.KEY_VALID. -/

/-- R61: the bytes 0x01, 0x02 and 0x03 are commands. -/
theorem decode_ne_reserved : ∀ c ∈ [0x01#8, 0x02#8, 0x03#8], decode c ≠ .reserved := by
  decide

/-- R98: the take of EXPAND_KEY clears STATUS.KEY_VALID. -/
theorem keyValid_of_takes_expandKey {s t : State} (hc : TakesNext s 0x01#8) (h : step s = .next t) :
    t.keyValid = false := by
  obtain ⟨u, -, hcmd, htake⟩ := takeCase_of_takes hc h
  cases htake with
  | expandKey _ ht => simp [ht]
  | encrypt hcmd' => simp [hcmd] at hcmd'
  | decrypt hcmd' => simp [hcmd] at hcmd'
  | noKey hcmd' => simp [hcmd] at hcmd'
  | reservedCmd hd => exact absurd (hcmd ▸ hd) (decode_ne_reserved _ (by simp))

/-- R30: no event but reset and the take and completion of EXPAND_KEY writes STATUS.KEY_VALID. -/
theorem keyValid_frame {s t : State} (h : step s = .next t) (hr : ¬ResetsNext s) (hc : ¬TakesNext s 0x01#8)
    (hd : ¬(s.busy = true ∧ s.opL = some .expandKey ∧ t.busy = false)) : t.keyValid = s.keyValid := by
  cases step_event h with
  | reset hr' => exact absurd hr' hr
  | quiet _ _ hu => exact hu.keyValid
  | take _ u hc' hu ht =>
    cases ht with
    | expandKey hcmd => exact absurd (hcmd ▸ hc') hc
    | encrypt _ _ ht => simp [ht, hu.keyValid]
    | decrypt _ _ ht => simp [ht, hu.keyValid]
    | noKey _ _ ht => simp [ht, hu.keyValid]
    | reservedCmd _ ht => simp [ht, hu.keyValid]
  | micro _ _ hb u hu ht =>
    cases microStep_case ht with
    | expandRound _ _ _ _ _ ht => simp [ht, hu.keyValid]
    | expandDone ho _ _ _ ht => exact absurd ⟨hb, hu.opL ▸ ho, by simp [ht]⟩ hd
    | blockRound _ _ _ _ ht => simp [ht, hu.keyValid]
    | blockDone _ _ ht => simp [ht, hu.keyValid]

/-- The take of ENCRYPT or DECRYPT: started with a valid key, else rejected. -/
theorem take_of_takes_block {s t : State} (hc : TakesNext s 0x02#8 ∨ TakesNext s 0x03#8) (h : step s = .next t) :
    ∃ u, SameRegisters s u ∧
      ((s.keyValid = true ∧ ∃ i d r, t = startBlock i d r (consumeCommand u)) ∨
       (s.keyValid = false ∧ t = raiseError .noKey (consumeCommand u))) := by
  obtain ⟨c, hcmd, hc⟩ : ∃ c, (c = 0x02#8 ∨ c = 0x03#8) ∧ TakesNext s c := by
    rcases hc with hc | hc
    · exact ⟨_, .inl rfl, hc⟩
    · exact ⟨_, .inr rfl, hc⟩
  obtain ⟨u, hu, rfl, htake⟩ := takeCase_of_takes hc h
  refine ⟨u, hu, ?_⟩
  rw [← hu.keyValid]
  cases htake with
  | expandKey hcmd' => simp [hcmd'] at hcmd
  | encrypt _ hk ht => exact .inl ⟨hk, _, _, _, ht⟩
  | decrypt _ hk ht => exact .inl ⟨hk, _, _, _, ht⟩
  | noKey _ hk ht => exact .inr ⟨hk, ht⟩
  | reservedCmd hd => exact absurd hd (decode_ne_reserved _ (by simp [hcmd]))

/-- Settles O37: each event by what enables it, and the frame of the others. -/
theorem keyValidWrittenByItsEvents : Obligations.KeyValidWrittenByItsEvents := by
  refine ⟨fun s t h => ⟨fun hr => ?_, fun hr => ⟨fun hc => keyValid_of_takes_expandKey hc h, fun hb ho hd => ?_,
    keyValid_frame h hr⟩⟩, fun s t hk h hc _ => ?_⟩
  · obtain ⟨u, -, rfl⟩ := eq_resetEvent_of_resets hr h
    rfl
  · rcases completion_of_busy_falls hr hb hd h with ⟨-, hkv⟩ | ⟨hblock, -⟩
    · exact hkv
    · exact absurd ho hblock.not_expandKey
  · obtain ⟨u, hu, ⟨hk', -⟩ | ⟨-, rfl⟩⟩ := take_of_takes_block hc h
    · simp [hk] at hk'
    · exact ⟨hu.st, hu.rks, hu.dout, hu.opL, hu.rnd, hu.busy, hu.keyValid, hu.doutValid, rfl⟩

/-! STATUS.DOUT_VALID and DOUT. -/

/-- R25, R31: no event but reset and the start and completion of a block command writes STATUS.DOUT_VALID or DOUT. -/
theorem dout_frame {s t : State} (h : step s = .next t) (hr : ¬ResetsNext s)
    (hc : ¬((TakesNext s 0x02#8 ∨ TakesNext s 0x03#8) ∧ s.keyValid = true))
    (hd : ¬(s.busy = true ∧ s.BlockInFlight ∧ t.busy = false)) : t.doutValid = s.doutValid ∧ t.dout = s.dout := by
  cases step_event h with
  | reset hr' => exact absurd hr' hr
  | quiet _ _ hu => exact ⟨hu.doutValid, hu.dout⟩
  | take _ u hc' hu ht =>
    cases ht with
    | expandKey _ ht => simp [ht, hu.doutValid, hu.dout]
    | encrypt hcmd hk => exact absurd ⟨.inl (hcmd ▸ hc'), hu.keyValid ▸ hk⟩ hc
    | decrypt hcmd hk => exact absurd ⟨.inr (hcmd ▸ hc'), hu.keyValid ▸ hk⟩ hc
    | noKey _ _ ht => simp [ht, hu.doutValid, hu.dout]
    | reservedCmd _ ht => simp [ht, hu.doutValid, hu.dout]
  | micro _ _ hb u hu ht =>
    cases microStep_case ht with
    | expandRound _ _ _ _ _ ht => simp [ht, hu.doutValid, hu.dout]
    | expandDone _ _ _ _ ht => simp [ht, hu.doutValid, hu.dout]
    | blockRound _ _ _ _ ht => simp [ht, hu.doutValid, hu.dout]
    | blockDone ho _ ht => exact absurd ⟨hb, hu.blockInFlight.1 ho, by simp [ht]⟩ hd

/-- Settles O38: each event by what enables it, and the frame of the others. -/
theorem doutValidWrittenByItsEvents : Obligations.DoutValidWrittenByItsEvents := by
  refine fun s t h => ⟨fun hr => ?_, fun hr => ⟨fun hc hk => ?_, fun hb ho hd => ?_, dout_frame h hr⟩⟩
  · obtain ⟨u, -, rfl⟩ := eq_resetEvent_of_resets hr h
    rfl
  · obtain ⟨u, hu, ⟨-, i, d, r, rfl⟩ | ⟨hk', -⟩⟩ := take_of_takes_block hc h
    · exact ⟨rfl, hu.dout⟩
    · simp [hk] at hk'
  · rcases completion_of_busy_falls hr hb hd h with ⟨hexpand, -⟩ | ⟨-, hdone⟩
    · exact absurd hexpand ho.not_expandKey
    · exact hdone

/-! STATUS.ERR. -/

/-- R154: a take writes its outcome to STATUS.ERR. -/
theorem err_of_takes {s t : State} {c : Byte} (hc : TakesNext s c) (h : step s = .next t) : t.err = takeOutcome s c := by
  obtain ⟨u, hu, rfl, htake⟩ := takeCase_of_takes hc h
  have block : ∀ c, (c = 0x02#8 ∨ c = 0x03#8) → takeOutcome s c = if u.keyValid then .ok else .noKey := by
    rintro c (rfl | rfl) <;> rw [hu.keyValid] <;> rfl
  cases htake with
  | expandKey hcmd ht => rw [hcmd, ht]; rfl
  | encrypt hcmd hk ht => rw [block _ (.inl hcmd), hk, ht]; rfl
  | decrypt hcmd hk ht => rw [block _ (.inr hcmd), hk, ht]; rfl
  | noKey hcmd hk ht => rw [block _ hcmd, hk, ht]; rfl
  | reservedCmd hd ht => rw [takeOutcome, hd, ht]; rfl

/-- R154: micro-steps and completions do not write STATUS.ERR. -/
theorem microStep_err {s t : State} (h : microStep s = .next t) : t.err = s.err := by
  cases microStep_case h with
  | expandRound _ _ _ _ _ ht => simp [ht]
  | expandDone _ _ _ _ ht => simp [ht]
  | blockRound _ _ _ _ ht => simp [ht]
  | blockDone _ _ ht => simp [ht]

/-- Settles O39: a take by its outcome, a reset by the reset value, and no micro-step writes STATUS.ERR. -/
theorem errWrittenByTakesAndReset : Obligations.ErrWrittenByTakesAndReset := by
  refine fun s t h => ⟨fun hr => ?_, fun hr => ⟨fun c hc => err_of_takes hc h, fun hn => ?_⟩⟩
  · obtain ⟨u, -, rfl⟩ := eq_resetEvent_of_resets hr h
    rfl
  · cases step_event h with
    | reset hr' => exact absurd hr' hr
    | micro _ _ _ u hu ht => exact (microStep_err ht).trans hu.err
    | take _ u hc => exact absurd hc (hn _)
    | quiet _ _ hu => exact hu.err

/-! The registers after reset, and the port status. -/

/-- R38: every round key holds ⊥ after a reset. -/
theorem resetEvent_rks_written (s : State) (r : Fin 11) : ((resetEvent s).rks.get r).written = false := by
  simp [Vector.get]

/-- Settles O24: the state after reset is that of a Reset event. -/
theorem resetStateHoldsResetValues : Obligations.ResetStateHoldsResetValues :=
  ⟨rfl, rfl, rfl, rfl, rfl, rfl, rfl, rfl, rfl, resetEvent_rks_written State.reset⟩

/-- R28, R33: the layout of STATUS for any three bits and any two-bit code. -/
theorem status_layout : ∀ (busy keyValid doutValid : Bool) (code : BitVec 2),
    let status := bitByte busy ||| (bitByte keyValid <<< 1) ||| (bitByte doutValid <<< 2) ||| (code.setWidth 8 <<< 3)
    status.getLsbD 0 = busy ∧ status.getLsbD 1 = keyValid ∧ status.getLsbD 2 = doutValid ∧
      status.extractLsb' 3 2 = code ∧ status.extractLsb' 5 3 = 0#3 := by
  decide

/-- R152: code 3 is never produced. -/
theorem code_ne_three (e : ErrCode) : e.code ≠ 3#2 := by
  cases e <;> decide

/-- Settles O32: the layout for any bits, and the three codes. -/
theorem statusPortLayout : Obligations.StatusPortLayout := by
  intro s
  obtain ⟨hbusy, hkv, hdv, herr, hzero⟩ := status_layout s.busy s.keyValid s.doutValid s.err.code
  exact ⟨hbusy, hkv, hdv, herr, hzero, code_ne_three s.err⟩

end Sys2Proof.Machine
end

section
/-!
SUPPORT. The port packing (spec/20_memory.md R44): the fields of a packed word, block and schedule, and that a port is its
sixteen bytes.
-/

namespace Sys2Proof

/-! Rows and columns of a block. -/

@[simp] theorem Word.ofBytes_byte (f : Fin 4 → Byte) (r : Fin 4) : (Word.ofBytes f).byte r = f r := by
  match r with
  | 0 | 1 | 2 | 3 => rfl

@[simp] theorem Block.ofMatrix_elem (f : Fin 4 → Fin 4 → Byte) (r c : Fin 4) : (Block.ofMatrix f).elem r c = f r c := by
  match c with
  | 0 | 1 | 2 | 3 => exact Word.ofBytes_byte (f · _) r

/-- A block is the matrix of its elements (R15). -/
theorem Block.ofMatrix_of_elem (b : Block) : Block.ofMatrix b.elem = b := rfl

/-! Bytes of a port. -/

/-- The last of two bit vectors packed one after another. -/
theorem extract_append_last {m n : Nat} (x : BitVec m) (y : BitVec n) : (x ++ y).extractLsb' 0 n = y :=
  (extract_append_low x y (by omega)).trans (extract_all y)

/-- R44: byte `r` of a packed word. -/
theorem extract_packWord (w : Word) (r : Fin 4) : (packWord w).extractLsb' (24 - 8 * r.val) 8 = w.byte r := by
  unfold packWord
  match r with
  | 0 =>
    repeat rw [extract_append_high _ _ (by decide)]
    exact extract_all w.b0
  | 1 | 2 | 3 =>
    repeat rw [extract_append_high _ _ (by decide)]
    exact extract_append_last _ _

/-- R44: column `c` of a packed block. -/
theorem extract_packBlock (b : Block) (c : Fin 4) :
    (packBlock b).extractLsb' (96 - 32 * c.val) 32 = packWord (b.col c) := by
  unfold packBlock
  match c with
  | 0 =>
    repeat rw [extract_append_high _ _ (by decide)]
    exact extract_all (packWord b.c0)
  | 1 | 2 | 3 =>
    repeat rw [extract_append_high _ _ (by decide)]
    exact extract_append_last _ _

/-- R44, R15: the element in row `r` and column `c` is byte `r + 4c` of the port. -/
theorem portByte_packBlock_elem (b : Block) (r c : Fin 4) : portByte (packBlock b) (r.val + 4 * c.val) = b.elem r c := by
  rw [portByte, show 120 - 8 * (r.val + 4 * c.val) = (96 - 32 * c.val) + (24 - 8 * r.val) by omega,
    ← extract_extract (len := 32) _ (by omega), extract_packBlock, extract_packWord, Block.elem]

/-- R44: byte `i` of a packed block. -/
theorem portByte_packBlock (b : Block) (i : Fin 16) : portByte (packBlock b) i.val = b.byte i := by
  rw [Block.byte, ← portByte_packBlock_elem, Nat.mod_add_div]

theorem getLsbD_portByte (p : BitVec 128) (i : Nat) {k : Nat} (hk : k < 8) :
    (portByte p i).getLsbD k = p.getLsbD (120 - 8 * i + k) := by
  simp [portByte, hk]

/-- A 128-bit port is its sixteen bytes. -/
theorem port_ext {p q : BitVec 128} (h : ∀ r c : Fin 4, portByte p (r.val + 4 * c.val) = portByte q (r.val + 4 * c.val)) :
    p = q := by
  have hbyte : ∀ i < 16, portByte p i = portByte q i := fun i hi => by
    simpa only [Nat.mod_add_div] using h ⟨i % 4, by omega⟩ ⟨i / 4, by omega⟩
  apply BitVec.eq_of_getLsbD_eq
  intro j hj
  have hbit := congrArg (·.getLsbD (j % 8)) (hbyte (15 - j / 8) (by omega))
  simpa only [getLsbD_portByte _ _ (Nat.mod_lt j (by decide : 8 > 0)),
    show 120 - 8 * (15 - j / 8) + j % 8 = j by omega] using hbit

@[simp] theorem unpackBlock_elem (p : BitVec 128) (r c : Fin 4) :
    (unpackBlock p).elem r c = portByte p (r.val + 4 * c.val) := by
  simp [unpackBlock]

@[simp] theorem unpackBlock_packBlock (b : Block) : unpackBlock (packBlock b) = b := by
  simp only [unpackBlock, portByte_packBlock_elem, Block.ofMatrix_of_elem]

@[simp] theorem packBlock_unpackBlock (p : BitVec 128) : packBlock (unpackBlock p) = p :=
  port_ext fun r c => by rw [portByte_packBlock_elem, unpackBlock_elem]

/-! The port rk_out. -/

/-- R44, R66: round key `r` of a packed schedule. -/
@[simp] theorem rkOutKey_packSchedule (k : Schedule) (r : Fin 11) : rkOutKey (packSchedule k) r = packBlock (k.get r) := by
  unfold rkOutKey packSchedule
  match r with
  | 0 =>
    repeat rw [extract_append_high _ _ (by decide)]
    exact extract_all (packBlock (k.get 0))
  | 1 | 2 | 3 | 4 | 5 | 6 | 7 | 8 | 9 | 10 =>
    repeat rw [extract_append_high _ _ (by decide)]
    exact extract_append_last _ _

/-- R44: schedule byte `16r + i` on rk_out is byte `i` of round key `r` as a port. -/
theorem extract_rkOut (p : BitVec 1408) (r : Fin 11) (i : Fin 16) :
    p.extractLsb' (1400 - 8 * (16 * r.val + i.val)) 8 = portByte (rkOutKey p r) i.val := by
  rw [portByte, rkOutKey, extract_extract _ (by omega)]
  congr 1
  omega

/-- Settles O34: bytes of the packed block by row and column, a port by its bytes, and rk_out by its round keys. -/
theorem portPacking : Obligations.PortPacking := by
  refine ⟨fun b i k hk => ?_, unpackBlock_packBlock, packBlock_unpackBlock, fun k r i => ?_⟩
  · rw [← getLsbD_portByte _ _ hk, portByte_packBlock]
  · rw [extract_rkOut, rkOutKey_packSchedule, portByte_packBlock]

end Sys2Proof
end

section
/-!
SUPPORT. The host's side of a step (spec/20_memory.md R48, R52, R53): the take of a decoded command, the READ lines, and the
steps of a machine left alone.
-/

namespace Sys2Proof.Machine

open Sys2Proof

/-! Taking a command. -/

/-- R53, R155: no command acts while ready = 0. -/
theorem exec_of_not_ready (i : Instr) {s : State} (h : s.ready = false) : exec i s = .next s := by
  cases i with
  | expandKey => exact whenReady_of_not_ready h _
  | encrypt => exact whenReady_of_not_ready h _
  | decrypt => exact whenReady_of_not_ready h _

/-- Settles O7: every command's take is guarded by `whenReady`. -/
theorem commandNotTakenUnlessReady : Obligations.CommandNotTakenUnlessReady := fun i _ h => exec_of_not_ready i h

/-- R63: decoding an encoded command gives it back. -/
@[simp] theorem decode_encode (i : Instr) : decode (encode i) = .command i := by
  cases i <;> decide

/-- A byte read as a table word of 8 bits is that byte. -/
@[simp] theorem tableByte_toNat (c : Byte) : tableByte 8 c.toNat = c := by
  rw [tableByte, Nat.mod_eq_of_lt c.isLt, BitVec.ofNat_toNat, BitVec.setWidth_eq]

/-- R52, R53: the event of an idle core that is presented a command is `exec` of it. -/
theorem coreEvent_of_decoded {s : State} {i : Instr} (hr : s.rst = false) (hb : s.busy = false) (hv : s.cmdValid = true)
    (hd : decode s.cmd = .command i) : coreEvent s = exec i (consumeCommand s) :=
  (coreEvent_of_command hb hv).trans (issueEvent_command (ready_iff.2 ⟨hb, hr⟩) hd)

/-- R53: the step of an idle core with a command on its port. -/
theorem step_of_decoded {s : State} {i : Instr} (hr : s.rst = false) (hb : s.busy = false) (hv : s.cmdValid = true)
    (hd : decode s.cmd = .command i) : step s = exec i (consumeCommand s) :=
  (step_of_command hr hv).trans (coreEvent_of_decoded hr hb hv hd)

/-- An offer to an idle core is an ISSUE (notes/assumptions/8.md). -/
theorem runLine_offer_of_idle {s : State} (hb : s.busy = false) (c : Byte) (k d : Option (BitVec 128)) :
    runLine (.offer c k d) s = runLine (.issue c k d) s :=
  if_neg (by simp [hb])

/-- R66: an ISSUE line that meets an idle core is the take of its command. -/
theorem runLine_issue_of_decoded {s : State} {i : Instr} {c : Byte} (hr : s.rst = false) (hb : s.busy = false)
    (hd : decode c = .command i) (k d : Option (BitVec 128)) :
    runLine (.issue c k d) s = exec i (consumeCommand (presentCommand c k d s)) :=
  coreEvent_of_decoded (s := presentCommand c k d s) hr hb rfl hd

/-- Settles O3: on the port, by an ISSUE line, by an offer line, which is an ISSUE here, and by `withFetchWord`. -/
theorem stepRunsDecodedCommand : Obligations.StepRunsDecodedCommand := by
  refine ⟨fun s i hr hb hv hd => step_of_decoded hr hb hv hd, fun s i c k d rest hr hb hv hs hd => ?_,
    fun s i c k d rest hr hb hv hs hd => ?_, fun s i => ?_⟩
  · rw [step_of_line hr hv hs, runLine_issue_of_decoded (s := { s with script := rest }) hr hb hd]
  · rw [step_of_line hr hv hs, runLine_offer_of_idle (s := { s with script := rest }) hb,
      runLine_issue_of_decoded (s := { s with script := rest }) hr hb hd]
  · rw [State.withFetchWord, tableByte_toNat]
    exact step_of_decoded rfl rfl rfl (decode_encode i)

/-! The READ lines. -/

/-- R36: while STATUS.KEY_VALID = 1 the part of round key `r` on port rk_out is RKS[r]. -/
theorem Inv.rkOutPort_get {s : State} (hi : Inv s) (hv : s.keyValid = true) :
    ∃ v, s.rkOutPort = .ok v ∧ ∀ r, rkOutKey v r = packBlock (s.rks.get r).bits := by
  obtain ⟨key, hrks, hp⟩ := hi.rkOutPort_of_keyValid hv
  exact ⟨_, hp, fun r => by simp [hrks, BlockReg.hold]⟩

/-- R48: a step that takes the script's line off and records a reading changes no register. -/
theorem registers_recordRead (s : State) (rest : List HostLine) (v : Reading) :
    SameRegisters s (recordRead v { s with script := rest }) :=
  (registers_takeLine s rest).recordRead v

/-- Settles O33: each READ line records its port's value, which the invariant gives when the valid bit is 1. -/
theorem readsReturnOutputs : Obligations.ReadsReturnOutputs := by
  intro s hi hr hv
  have next : ∀ line v, s.script.head? = some line →
      (∀ rest, runLine line { s with script := rest } = .next (recordRead v { s with script := rest })) →
      ∃ t, step s = .next t ∧ SameRegisters s t ∧ t.reads = s.reads ++ [v] := fun line v hs hrun => by
    obtain ⟨rest, hs⟩ := List.head?_eq_some_iff.1 hs
    exact ⟨_, (step_of_line hr hv hs).trans (hrun rest), registers_recordRead s rest v, rfl⟩
  have inv : ∀ rest, Inv { s with script := rest } := fun rest => hi.of_sameRegisters (registers_takeLine s rest)
  refine ⟨fun hs => next _ _ hs fun _ => rfl, fun hs hd => next _ _ hs fun rest => ?_,
    fun r hs hk => next _ _ hs fun rest => ?_⟩
  · rw [runLine, (inv rest).doutPort_of_doutValid hd]
  · obtain ⟨v, hp, hkey⟩ := (inv rest).rkOutPort_get hk
    rw [runLine, hp, ← hkey r]

/-! An undisturbed machine. -/

/-- R52: an undisturbed step is the core's own event. -/
theorem step_of_undisturbed {s : State} (h : Undisturbed s) : step s = coreEvent s := by
  obtain ⟨hr, hv, hs⟩ := h
  exact step_of_no_line hr hv hs

/-- A micro-step leaves the host's side and rst alone. -/
theorem microStep_host {s t : State} (h : microStep s = .next t) : SameHost s t ∧ t.rst = s.rst := by
  cases microStep_case h with
  | expandRound _ _ _ _ _ ht => subst ht; exact ⟨⟨rfl, rfl, rfl, rfl, rfl, rfl⟩, rfl⟩
  | expandDone _ _ _ _ ht => subst ht; exact ⟨⟨rfl, rfl, rfl, rfl, rfl, rfl⟩, rfl⟩
  | blockRound _ _ _ _ ht => subst ht; exact ⟨⟨rfl, rfl, rfl, rfl, rfl, rfl⟩, rfl⟩
  | blockDone _ _ ht => subst ht; exact ⟨⟨rfl, rfl, rfl, rfl, rfl, rfl⟩, rfl⟩

theorem Undisturbed.of_microStep {s t : State} (hu : Undisturbed s) (h : microStep s = .next t) : Undisturbed t := by
  obtain ⟨hr, hv, hs⟩ := hu
  obtain ⟨hhost, hrst⟩ := microStep_host h
  exact ⟨hrst.trans hr, hhost.cmdValid.trans hv, hhost.script.trans hs⟩

/-- R180: each micro-step leaves one fewer. -/
theorem microStep_remaining {s t : State} (h : microStep s = .next t) : remaining t + 1 = remaining s := by
  have up : s.rnd.toNat ≤ 9 → (s.rnd + 1#4).toNat = s.rnd.toNat + 1 := by bv_omega
  have down : 1 ≤ s.rnd.toNat → (s.rnd - 1#4).toNat = s.rnd.toNat - 1 := by bv_omega
  rcases microStep_next h with ⟨ho, h⟩ | ⟨ho, h⟩ | ⟨ho, h⟩
  · obtain ⟨-, -, prev, -, ⟨h10, rfl⟩ | ⟨h9, rfl⟩⟩ := microExpandKey_next h
    · simp [remaining, ho, h10]
    · simp only [remaining, writeRoundKey_opL, ho, up (by omega)]
      omega
  · obtain ⟨-, b, k, -, -, ⟨h0, rfl⟩ | ⟨-, h9, rfl⟩ | ⟨h10, rfl⟩⟩ := microEncrypt_next h
    · simp [remaining, ho, h0]
    · simp only [remaining, nextRound_opL, nextRound_rnd, ho, up h9]
      omega
    · simp [remaining, ho, h10]
  · obtain ⟨-, b, k, -, -, ⟨h10, rfl⟩ | ⟨h1, -, rfl⟩ | ⟨h0, rfl⟩⟩ := microDecrypt_next h
    · simp [remaining, ho, h10]
    · simp only [remaining, nextRound_opL, nextRound_rnd, ho, down h1]
      omega
    · simp [remaining, ho, h0]

/-- R26: while micro-steps are left the core is busy. -/
theorem Inv.busy_of_remaining {s : State} (hi : Inv s) (h : 0 < remaining s) : s.busy = true := by
  refine hi.busy_iff.2 fun ho => ?_
  simp [remaining, ho] at h

/-- R52: an undisturbed run is the micro-steps of the command in flight, as far as it goes. -/
theorem run_eq_microSteps {s : State} (hi : Inv s) (hu : Undisturbed s) {n : Nat} (hn : n ≤ remaining s) :
    Host.Core.run core n s = microSteps n s := by
  induction n generalizing s with
  | zero => rfl
  | succ n ih =>
    have hb := hi.busy_of_remaining (by omega)
    obtain ⟨t, ht⟩ := hi.microStep_answers hb
    have hleft := microStep_remaining ht
    have hstep : step s = .next t := (step_of_undisturbed hu).trans ((coreEvent_of_busy hb).trans ht)
    rw [run_succ hstep, microSteps_succ ht]
    exact ih (hi.of_microStep ht) (hu.of_microStep ht) (by omega)

/-- R52, R171: an idle machine left alone keeps its state. -/
theorem run_of_undisturbed_idle {s : State} (hu : Undisturbed s) (hb : s.busy = false) (n : Nat) :
    Host.Core.run core n s = .next s := by
  have ⟨_, hv, _⟩ := hu
  have hstep : step s = .next s := (step_of_undisturbed hu).trans (coreEvent_of_quiet hb hv)
  induction n with
  | zero => rfl
  | succ n ih => exact (run_succ hstep n).trans ih

/-- Settles O20: by induction on the number of steps, busy and idle. -/
theorem undisturbedStepsAreMicroSteps : Obligations.UndisturbedStepsAreMicroSteps :=
  ⟨fun _ _ hi hu hn => run_eq_microSteps hi hu hn, fun _ n hu hb => run_of_undisturbed_idle hu hb n⟩

end Sys2Proof.Machine
end

section
/-!
SUPPORT. Command bytes (spec/30_encoding.md R60 to R64), the rejection of a reserved byte (R64), and the WAIT line (R66).
-/

namespace Sys2Proof.Machine

open Sys2Proof

/-! The WAIT line. -/

theorem SameHost.refl (s : State) : SameHost s s := ⟨rfl, rfl, rfl, rfl, rfl, rfl⟩

theorem SameHost.trans {s t u : State} (h : SameHost s t) (h' : SameHost t u) : SameHost s u :=
  ⟨h'.cmdValid.trans h.cmdValid, h'.cmd.trans h.cmd, h'.keyIn.trans h.keyIn, h'.din.trans h.din,
    h'.script.trans h.script, h'.reads.trans h.reads⟩

/-- R180: a core without micro-steps left is idle. -/
theorem Inv.idle_of_remaining_zero {s : State} (hi : Inv s) (h : remaining s = 0) : s.busy = false := by
  cases hb : s.busy with
  | false => rfl
  | true =>
    obtain ⟨t, ht⟩ := hi.microStep_answers hb
    have hleft := microStep_remaining ht
    omega

/-- R52, R66, R175: while the host's side makes every busy step a micro-step, as a WAIT and a held command do, the run is
the micro-steps of the command in flight up to its completion; they leave the host's side, rst and STATUS.ERR alone. -/
theorem Inv.run_to_completion {s : State} (hi : Inv s)
    (hstep : ∀ u, SameHost s u → u.rst = s.rst → u.busy = true → step u = microStep u) :
    ∃ t, Host.Core.run core (remaining s) s = .next t ∧ microSteps (remaining s) s = .next t ∧
      t.busy = false ∧ SameHost s t ∧ t.rst = s.rst ∧ t.err = s.err := by
  induction hn : remaining s generalizing s with
  | zero => exact ⟨s, rfl, rfl, hi.idle_of_remaining_zero hn, .refl s, rfl, rfl⟩
  | succ n ih =>
    have hb := hi.busy_of_remaining (by omega)
    obtain ⟨u, hu⟩ := hi.microStep_answers hb
    obtain ⟨hhost, hrst⟩ := microStep_host hu
    have hleft := microStep_remaining hu
    obtain ⟨t, hrun, hmicro, hidle, hhost', hrst', herr⟩ := ih (hi.of_microStep hu)
      (fun v hv hr => hstep v (hhost.trans hv) (hr.trans hrst)) (by omega)
    have hfirst : step s = .next u := (hstep s (.refl s) rfl hb).trans hu
    exact ⟨t, (run_succ hfirst n).trans hrun, (microSteps_succ hu n).trans hmicro, hidle, hhost.trans hhost',
      hrst'.trans hrst, herr.trans (microStep_err hu)⟩

/-- R66: a WAIT that meets a busy core is a micro-step, and the line stays. -/
theorem step_of_wait_busy {s : State} {rest : List HostLine} (hr : s.rst = false) (hv : s.cmdValid = false)
    (hs : s.script = .wait :: rest) (hb : s.busy = true) : step s = microStep s := by
  have hline : { s with script := .wait :: rest } = s := by rw [← hs]
  rw [step_of_line hr hv hs, runLine, if_pos hb, hline, coreEvent_of_busy hb]

/-- R66: a WAIT that meets an idle core is done at once. -/
theorem step_of_wait_idle {s : State} {rest : List HostLine} (hr : s.rst = false) (hv : s.cmdValid = false)
    (hs : s.script = .wait :: rest) (hb : s.busy = false) : step s = .next { s with script := rest } := by
  rw [step_of_line hr hv hs, runLine, if_neg (by simp [hb])]

/-- Settles O23: every busy step under WAIT is a micro-step, so the run completes the command, and the idle step then
takes the line off. -/
theorem waitRunsCommandToCompletion : Obligations.WaitRunsCommandToCompletion := by
  refine fun s rest hi hr hv hs => ⟨fun _ => ?_, step_of_wait_idle hr hv hs⟩
  obtain ⟨t, hrun, hmicro, hidle, hhost, hrst, -⟩ := hi.run_to_completion fun u hu hur hub =>
    step_of_wait_busy (hur.trans hr) (hu.cmdValid.trans hv) (hu.script.trans hs) hub
  exact ⟨t, hrun, hmicro, hidle, hhost.script,
    step_of_wait_idle (hrst.trans hr) (hhost.cmdValid.trans hv) (hhost.script.trans hs) hidle⟩

/-! Command bytes. -/

/-- R60, R63: a byte decodes to a command exactly when it is the command's encoding. -/
theorem decode_eq_command_iff {c : Byte} {i : Instr} : decode c = .command i ↔ c = encode i :=
  ⟨decode_command, fun h => h ▸ decode_encode i⟩

/-- R63: every other byte is reserved. -/
theorem decode_eq_reserved_iff_ne {c : Byte} : decode c = .reserved ↔ ∀ i, c ≠ encode i := by
  simp only [ne_eq, ← decode_eq_command_iff]
  cases decode c with
  | reserved => simp
  | command i => simp

/-- R61, R64: the encodings are 0x01, 0x02 and 0x03, so the reserved bytes are 0x00 and 0x04 to 0xFF. -/
theorem decode_eq_reserved_iff {c : Byte} : decode c = .reserved ↔ c = 0x00#8 ∨ 4 ≤ c.toNat := by
  have encodings : (∀ i, c ≠ encode i) ↔ c ≠ 0x01#8 ∧ c ≠ 0x02#8 ∧ c ≠ 0x03#8 :=
    ⟨fun h => ⟨h .expandKey, h .encrypt, h .decrypt⟩, fun ⟨h1, h2, h3⟩ i => by cases i <;> assumption⟩
  rw [decode_eq_reserved_iff_ne, encodings]
  bv_omega

/-- R61: under the mask 0xFF the match of a command is its whole byte. -/
theorem mask_eq_encode_iff {c : Byte} (i : Instr) : c &&& 0xFF#8 = encode i ↔ decode c = .command i := by
  have hmask : c &&& 0xFF#8 = c := BitVec.and_allOnes
  rw [hmask, decode_eq_command_iff]

/-- Settles O1: each command by its encoding under the mask, and the reserved bytes as those left over. -/
theorem commandBytesFollowOpcodeMap : Obligations.CommandBytesFollowOpcodeMap :=
  ⟨fun _ => mask_eq_encode_iff .expandKey, fun _ => mask_eq_encode_iff .encrypt, fun _ => mask_eq_encode_iff .decrypt,
    fun _ => decode_eq_reserved_iff.symm⟩

/-- R60: the decoder reads a command's byte, as a table word, as that command. -/
theorem decodeTableWord_encode (i : Instr) : decodeTableWord 8 (encode i).toNat = some i := by
  rw [decodeTableWord, tableByte_toNat, decode_encode]

/-- Settles O2: decoding inverts encoding, also on the three table words, which are the commands' bytes. -/
theorem decodeAndEncodeAgree : Obligations.DecodeAndEncodeAgree :=
  ⟨decode_encode, fun _ _ => decode_command, decodeTableWord_encode .expandKey, decodeTableWord_encode .encrypt,
    decodeTableWord_encode .decrypt⟩

/-! The rejection of a command. -/

/-- R153: consuming a command and raising an error changes STATUS.ERR and no other register. -/
theorem SameRegisters.raiseError_consumeCommand {s u : State} (h : SameRegisters s u) (code : ErrCode) :
    SameRegisters { s with err := code } (raiseError code (consumeCommand u)) :=
  ⟨h.st, h.rks, h.dout, h.opL, h.rnd, h.busy, h.keyValid, h.doutValid, rfl⟩

/-- Settles O4: the step is the rejection by a state with the same registers. -/
theorem reservedCommandRejected : Obligations.ReservedCommandRejected := by
  refine ⟨fun c => decode_eq_reserved_iff, fun s c hc hres => ?_⟩
  obtain ⟨u, hu, rfl, -, hready, -, hstep⟩ := step_of_takes hc
  have hreject := issueEvent_reserved hready (decode_eq_reserved_iff.2 hres)
  exact ⟨_, hstep.trans hreject, hu.raiseError_consumeCommand .reservedCmd, rfl⟩

end Sys2Proof.Machine
end

section
/-!
SUPPORT. GF(2^8) (spec/40_gf_arithmetic.md R71 to R81): every byte is an XOR of single bits; the field product is
additive, commutative and associative and commutes with `mul2`; `x^256 = x`, so an inverse is unique and is `x^254`; the
tables.
-/

namespace Sys2Proof

/-! Bytes as sums of single bits. -/

/-- Keeping one more low bit, where that bit is 1, adds the single bit. -/
theorem setWidth_succ_eq_xor_twoPow {a : Byte} {k : Nat} (h : a.getLsbD k = true) :
    (a.setWidth (k + 1)).setWidth 8 = (a.setWidth k).setWidth 8 ^^^ BitVec.twoPow 8 k := by
  apply BitVec.eq_of_getLsbD_eq
  intro i hi
  simp only [BitVec.getLsbD_xor, BitVec.getLsbD_setWidth, BitVec.getLsbD_twoPow]
  by_cases hik : i = k
  · subst hik
    simp only [h, hi, decide_true, Nat.lt_irrefl, decide_false, Nat.lt_succ_self, Bool.and_self, Bool.false_and,
      Bool.and_false, Bool.false_bne]
  · have hlt : i < k + 1 ↔ i < k := by omega
    have hne : ¬k = i := fun h => hik h.symm
    simp only [hlt, hne, decide_false, Bool.and_false, Bool.xor_false]

/-- What holds of the single bits and is kept by XOR (R70) holds of every byte. -/
theorem byte_xor_induction {P : Byte → Prop} (bit : ∀ i < 8, P (BitVec.twoPow 8 i))
    (xor : ∀ a b, P a → P b → P (a ^^^ b)) (a : Byte) : P a := by
  have low : ∀ k, k ≤ 8 → P ((a.setWidth k).setWidth 8) := by
    intro k hk
    induction k with
    | zero =>
      have hzero := xor _ _ (bit 0 (by omega)) (bit 0 (by omega))
      rw [BitVec.xor_self] at hzero
      rwa [BitVec.of_length_zero (x := a.setWidth 0)]
    | succ k ih =>
      have hlow := ih (by omega)
      cases hbit : a.getLsbD k with
      | false => rwa [BitVec.setWidth_setWidth_succ_eq_setWidth_setWidth_of_getLsbD_false hbit]
      | true => exact setWidth_succ_eq_xor_twoPow hbit ▸ xor _ _ hlow (bit k hk)
  have hall := low 8 (Nat.le_refl 8)
  rwa [BitVec.setWidth_eq, BitVec.setWidth_eq] at hall

/-! The two forms of mul2. -/

/-- R71 by bit 7. -/
theorem mul2_eq (a : Byte) : mul2 a = (a <<< 1) ^^^ (bif a.getLsbD 7 then 0x1B#8 else 0#8) := by
  cases h : a.getLsbD 7 with
  | false => simp only [mul2, h, Bool.false_eq_true, if_false, cond_false, BitVec.xor_zero]
  | true => simp only [mul2, h, if_true, cond_true]

/-- R72: bit 7 chooses both the reduction and the mask. -/
theorem mul2_eq_mul2Branchless (a : Byte) : mul2 a = mul2Branchless a := by
  have hmask : ∀ b : Bool, (bif b then 0x1B#8 else 0#8) = 0x1B#8 &&& (BitVec.ofBool b).signExtend 8 := by decide
  rw [mul2_eq, hmask, mul2Branchless]

/-- R72: an output bit is the input bit below it, and bit 7 of the input where the reduction 0x1B has a bit. -/
theorem getLsbD_mul2 (a : Byte) (i : Nat) :
    (mul2 a).getLsbD i = ((a <<< 1).getLsbD i ^^ (a.getLsbD 7 && (0x1B#8).getLsbD i)) := by
  rw [mul2_eq, BitVec.getLsbD_xor]
  cases a.getLsbD 7 with
  | false => simp only [cond_false, BitVec.getLsbD_zero, Bool.false_and]
  | true => simp only [cond_true, Bool.true_and]

/-- Settles O40: both forms by what bit 7 chooses. -/
theorem mul2HasBranchlessForm : Obligations.Mul2HasBranchlessForm := fun a => by
  refine ⟨mul2_eq_mul2Branchless a, ?_⟩
  simp only [getLsbD_mul2]
  simp

/-! The field product. -/

/-- R74: the loop is additive in the sum so far and the left factor, whose doubling is. -/
theorem gmulLoop_xor_left (n : Nat) (p q a b m : Byte) :
    gmulLoop n (p ^^^ q) (a ^^^ b) m = gmulLoop n p a m ^^^ gmulLoop n q b m := by
  induction n generalizing p q a b m with
  | zero => rfl
  | succ n ih =>
    have hp : p ^^^ q ^^^ (a ^^^ b) = p ^^^ a ^^^ (q ^^^ b) := by ac_rfl
    simp only [gmulLoop, mul2_xor, hp, ← ih]
    cases m.getLsbD 0 <;> rfl

/-- R74: the loop is additive in the sum so far and the right factor: a bit set in both terms adds `a` twice. -/
theorem gmulLoop_xor_right (n : Nat) (p q a b m : Byte) :
    gmulLoop n (p ^^^ q) a (b ^^^ m) = gmulLoop n p a b ^^^ gmulLoop n q a m := by
  induction n generalizing p q a b m with
  | zero => rfl
  | succ n ih =>
    have hround : ∀ x y : Bool, (if (x ^^ y) = true then p ^^^ q ^^^ a else p ^^^ q) =
        (if x = true then p ^^^ a else p) ^^^ (if y = true then q ^^^ a else q) := by
      intro x y
      match x, y with
      | false, false => rfl
      | false, true => exact BitVec.xor_assoc p q a
      | true, false => show p ^^^ q ^^^ a = p ^^^ a ^^^ q; ac_rfl
      | true, true =>
        have hcancel : p ^^^ a ^^^ (q ^^^ a) = p ^^^ q ^^^ (a ^^^ a) := by ac_rfl
        show p ^^^ q = p ^^^ a ^^^ (q ^^^ a)
        rw [hcancel, BitVec.xor_self, BitVec.xor_zero]
    rw [gmulLoop, BitVec.ushiftRight_xor_distrib, BitVec.getLsbD_xor, hround, ih, gmulLoop, gmulLoop]

theorem gmul_xor_left (a b m : Byte) : gmul (a ^^^ b) m = gmul a m ^^^ gmul b m :=
  gmulLoop_xor_left 8 0#8 0#8 a b m

theorem gmul_xor_right (a b m : Byte) : gmul a (b ^^^ m) = gmul a b ^^^ gmul a m :=
  gmulLoop_xor_right 8 0#8 0#8 a b m

theorem gmul_zero (a : Byte) : gmul a 0x00#8 = 0x00#8 := by
  have hadd := gmul_xor_right a 0x00#8 0x00#8
  rwa [BitVec.xor_self, BitVec.xor_self] at hadd

theorem gmul_one (a : Byte) : gmul a 0x01#8 = a := by
  induction a using byte_xor_induction with
  | bit i hi => revert i; decide
  | xor a b ha hb => rw [gmul_xor_left, ha, hb]

/-- Both sides are additive in both factors, so the single bits decide. -/
theorem gmul_comm (a b : Byte) : gmul a b = gmul b a := by
  induction a using byte_xor_induction with
  | xor a a' ha ha' => rw [gmul_xor_left, gmul_xor_right, ha, ha']
  | bit i hi =>
    induction b using byte_xor_induction with
    | xor b b' hb hb' => rw [gmul_xor_left, gmul_xor_right, hb, hb']
    | bit j hj => revert i j; decide +kernel

/-- The product commutes with `mul2`: both sides are additive in both factors, so the single bits decide. -/
theorem gmul_mul2 (a b : Byte) : gmul a (mul2 b) = mul2 (gmul a b) := by
  induction a using byte_xor_induction with
  | xor a a' ha ha' => rw [gmul_xor_left, gmul_xor_left, mul2_xor, ha, ha']
  | bit i hi =>
    induction b using byte_xor_induction with
    | xor b b' hb hb' => rw [mul2_xor, gmul_xor_right, gmul_xor_right, mul2_xor, hb, hb']
    | bit j hj => revert i j; decide +kernel

/-! Iterated maps. -/

theorem iterate_one (f : Byte → Byte) (a : Byte) : iterate f 1 a = f a := rfl

theorem iterate_iterate (f : Byte → Byte) (m n : Nat) (a : Byte) :
    iterate f n (iterate f m a) = iterate f (m + n) a := by
  induction m generalizing a with
  | zero => rw [Nat.zero_add, iterate]
  | succ m ih => rw [Nat.succ_add, iterate, iterate, ih]

/-- A map that commutes with the product does so when composed `k` times. -/
theorem gmul_iterate {f : Byte → Byte} {a : Byte} (hf : ∀ b, gmul a (f b) = f (gmul a b)) (k : Nat) (b : Byte) :
    gmul a (iterate f k b) = iterate f k (gmul a b) := by
  induction k generalizing b with
  | zero => rfl
  | succ k ih => rw [iterate, ih, hf, iterate]

/-- R73: `mul2` composed `k` times multiplies by `x^k`. -/
theorem iterate_mul2_eq_gmul (k : Nat) (a : Byte) : iterate mul2 k a = gmul a (iterate mul2 k 0x01#8) := by
  rw [gmul_iterate (gmul_mul2 a), gmul_one]

/-- R71: `mul2(0x8D) = 0x01`, so every byte is the double of its product by `0x8D`. -/
theorem mul2_gmul_8D (b : Byte) : mul2 (gmul b 0x8D#8) = b := by
  have hdouble : mul2 0x8D#8 = 0x01#8 := by decide
  rw [← gmul_mul2, hdouble, gmul_one]

/-- The product by `0x8D` undoes `mul2`. -/
theorem gmul_8D_mul2 (a : Byte) : gmul (mul2 a) 0x8D#8 = a := by
  rw [gmul_comm, gmul_mul2, gmul_comm, mul2_gmul_8D]

/-- R73: the order of 0x02 is 51: the 51st power is 1, and by the next theorem no smaller one. -/
theorem iterate_mul2_51_one : iterate mul2 51 0x01#8 = 0x01#8 := by decide +kernel

theorem iterate_mul2_ne_one : ∀ n < 51, 1 ≤ n → iterate mul2 n 0x01#8 ≠ 0x01#8 := by decide +kernel

/-- Settles O41: the bijection from the inverse of 0x02, the powers from `gmul_mul2`, the order by running `mul2`. -/
theorem mul2Laws : Obligations.Mul2Laws :=
  ⟨mul2_xor, rfl, fun b => ⟨gmul b 0x8D#8, mul2_gmul_8D b, fun a' ha' => ha' ▸ (gmul_8D_mul2 a').symm⟩,
    iterate_mul2_eq_gmul, iterate_mul2_eq_gmul 8, iterate_mul2_51_one, fun n h1 h51 => iterate_mul2_ne_one n h51 h1⟩

/-! The multiplier chains. -/

theorem mul2_eq_gmul (a : Byte) : mul2 a = gmul a 0x02#8 := iterate_mul2_eq_gmul 1 a

theorem mul4_eq_gmul (a : Byte) : mul4 a = gmul a 0x04#8 := iterate_mul2_eq_gmul 2 a

theorem mul8_eq_gmul (a : Byte) : mul8 a = gmul a 0x08#8 := iterate_mul2_eq_gmul 3 a

/-- Adding `a` itself adds 1 to its coefficient. -/
theorem gmul_xor_self (a b : Byte) : gmul a b ^^^ a = gmul a (b ^^^ 0x01#8) := by
  rw [gmul_xor_right, gmul_one]

/-- Settles O42: doubling is the product by 2, 4 and 8, and a sum of products of `a` is the product by the sum. -/
theorem multiplierChainsAreFieldProducts : Obligations.MultiplierChainsAreFieldProducts := fun a => by
  refine ⟨mul2_eq_gmul a, ?_, mul4_eq_gmul a, mul8_eq_gmul a, ?_, ?_, ?_, ?_⟩
  · rw [mul3, mul2_eq_gmul, gmul_xor_self]; rfl
  · rw [mul9, mul8_eq_gmul, gmul_xor_self]; rfl
  · rw [mul11, mul8_eq_gmul, mul2_eq_gmul, ← gmul_xor_right, gmul_xor_self]; rfl
  · rw [mul13, mul8_eq_gmul, mul4_eq_gmul, ← gmul_xor_right, gmul_xor_self]; rfl
  · rw [mul14, mul8_eq_gmul, mul4_eq_gmul, mul2_eq_gmul, ← gmul_xor_right, ← gmul_xor_right]; rfl

/-! Powers. -/

/-- Both sides are additive in `c`, and a single bit is a power of `x` (R73). -/
theorem gmul_assoc (a b c : Byte) : gmul (gmul a b) c = gmul a (gmul b c) := by
  induction c using byte_xor_induction with
  | xor c c' hc hc' => simp only [gmul_xor_right, hc, hc']
  | bit i hi =>
    have hpow : ∀ i < 8, BitVec.twoPow 8 i = iterate mul2 i 0x01#8 := by decide +kernel
    rw [hpow i hi, ← iterate_mul2_eq_gmul, ← iterate_mul2_eq_gmul, gmul_iterate (gmul_mul2 a)]

/-- `x^n` in the field. -/
def gpow (x : Byte) (n : Nat) : Byte := iterate (gmul x) n 0x01#8

theorem gpow_one (x : Byte) : gpow x 1 = x := by
  rw [gpow, iterate_one, gmul_one]

theorem gmul_gpow (x : Byte) (m n : Nat) : gmul (gpow x m) (gpow x n) = gpow x (m + n) := by
  have hcomm : ∀ b, gmul (gpow x m) (gmul x b) = gmul x (gmul (gpow x m) b) := fun b => by
    rw [← gmul_assoc, gmul_comm (gpow x m) x, gmul_assoc]
  calc gmul (gpow x m) (gpow x n)
    _ = iterate (gmul x) n (gmul (gpow x m) 0x01#8) := gmul_iterate hcomm n 0x01#8
    _ = iterate (gmul x) n (gpow x m) := by rw [gmul_one]
    _ = gpow x (m + n) := iterate_iterate (gmul x) m n 0x01#8

theorem gmul_self (x : Byte) : gmul x x = gpow x 2 := by
  rw [← gmul_gpow x 1 1, gpow_one]

/-- Squaring is additive: the two mixed products cancel. -/
theorem square_xor (a b : Byte) : gmul (a ^^^ b) (a ^^^ b) = gmul a a ^^^ gmul b b := by
  have hcancel : ∀ p q r : Byte, p ^^^ q ^^^ (q ^^^ r) = p ^^^ r := fun p q r => by
    rw [← BitVec.xor_assoc, BitVec.xor_assoc p q q, BitVec.xor_self, BitVec.xor_zero]
  rw [gmul_xor_left, gmul_xor_right, gmul_xor_right, gmul_comm b a, hcancel]

/-- Squaring eight times gives the byte back: squaring is additive, so the single bits decide. -/
theorem iterate_square_8 (x : Byte) : iterate (fun a => gmul a a) 8 x = x := by
  induction x using byte_xor_induction with
  | bit i hi => revert i; decide +kernel
  | xor a b ha hb =>
    simp only [iterate, square_xor] at *
    rw [ha, hb]

theorem gpow_256 (x : Byte) : gpow x 256 = x := by
  have hsquare := iterate_square_8 x
  simpa only [iterate, gmul_self x, gmul_gpow] using hsquare

/-! The field inverse. -/

/-- R79: the product of the squarings is `x^254`. -/
theorem gfInverse_eq_gpow (x : Byte) : gfInverse x = gpow x 254 := by
  simp only [gfInverse, gmul_self x, gmul_gpow, Nat.reduceAdd]

theorem gfInverse_zero : gfInverse 0x00#8 = 0x00#8 := by
  rw [gfInverse, gmul_zero]
  rfl

/-- A byte with an inverse `b` has it as `x^254`: `x^255 = x^256 • b = x • b = 1`. -/
theorem gmul_gfInverse_of_gmul_eq_one {x b : Byte} (h : gmul x b = 0x01#8) : gmul x (gfInverse x) = 0x01#8 := by
  have h255 : gpow x 255 = gmul x (gfInverse x) := by
    rw [gfInverse_eq_gpow, ← gmul_gpow x 1 254, gpow_one]
  have h256 : gmul (gpow x 255) x = x := by
    have hpow := gmul_gpow x 255 1
    rwa [gpow_one, gpow_256] at hpow
  calc gmul x (gfInverse x)
    _ = gmul (gpow x 255) (gmul x b) := by rw [h, gmul_one, h255]
    _ = 0x01#8 := by rw [← gmul_assoc, h256, h]

/-- Inverses are unique. -/
theorem gfInverse_eq_of_gmul_eq_one {x b : Byte} (h : gmul x b = 0x01#8) : gfInverse x = b :=
  calc gfInverse x
    _ = gmul (gfInverse x) (gmul x b) := by rw [h, gmul_one]
    _ = gmul b (gmul x (gfInverse x)) := by rw [← gmul_assoc, gmul_comm (gfInverse x) x, gmul_comm]
    _ = b := by rw [gmul_gfInverse_of_gmul_eq_one h, gmul_one]

/-! The tables. -/

/-- R79: the affine map of the S-box. -/
def sboxAffine (b : Byte) : Byte :=
  b ^^^ b.rotateLeft 1 ^^^ b.rotateLeft 2 ^^^ b.rotateLeft 3 ^^^ b.rotateLeft 4 ^^^ 0x63#8

theorem sboxConstruction_eq (x : Byte) : sboxConstruction x = sboxAffine (gfInverse x) := rfl

/-- The affine map that undoes R79's. -/
def sboxAffineInv (s : Byte) : Byte := s.rotateLeft 1 ^^^ s.rotateLeft 3 ^^^ s.rotateLeft 6 ^^^ 0x05#8

theorem sboxAffine_sboxAffineInv : ∀ s : Byte, sboxAffine (sboxAffineInv s) = s := by decide +kernel

/-- R78, R79: the table, entry by entry: with the affine map undone, the entry is an inverse of its index. -/
theorem gmul_sboxAffineInv_SBOX : ∀ x : Byte, x ≠ 0x00#8 → gmul x (sboxAffineInv (SBOX x)) = 0x01#8 := by
  decide +kernel

theorem SBOX_zero : SBOX 0x00#8 = 0x63#8 := by decide +kernel

theorem SBOX_eq_sboxConstruction (x : Byte) : SBOX x = sboxConstruction x := by
  rw [sboxConstruction_eq]
  by_cases hx : x = 0x00#8
  · rw [hx, gfInverse_zero, SBOX_zero]
    decide
  · rw [gfInverse_eq_of_gmul_eq_one (gmul_sboxAffineInv_SBOX x hx), sboxAffine_sboxAffineInv]

/-- Settles O43: what the table holds is an inverse after the affine map is undone, and the inverse is `gfInverse`. -/
theorem sboxIsInverseThenAffine : Obligations.SboxIsInverseThenAffine := fun x =>
  ⟨SBOX_eq_sboxConstruction x, fun hx => gmul_gfInverse_of_gmul_eq_one (gmul_sboxAffineInv_SBOX x hx), gfInverse_zero⟩

/-- R80: the entries of INV_SBOX at the entries of SBOX. -/
theorem INV_SBOX_SBOX : ∀ x : Byte, INV_SBOX (SBOX x) = x := by decide +kernel

/-- R80: the entries of SBOX at the entries of INV_SBOX. -/
theorem SBOX_INV_SBOX : ∀ x : Byte, SBOX (INV_SBOX x) = x := by decide +kernel

/-- Settles O44: the tables, entry by entry. -/
theorem sboxTablesInvertEachOther : Obligations.SboxTablesInvertEachOther := fun x =>
  ⟨INV_SBOX_SBOX x, SBOX_INV_SBOX x⟩

end Sys2Proof
end

section
/-!
SUPPORT. The key schedule: round constants and round keys (spec/41_key_schedule.md R90 to R97).
-/

namespace Sys2Proof

/-- R91: each entry of the table is the double of the one before. -/
theorem RC_succ : ∀ i < 9, RC (i + 1) = mul2 (RC i) := by decide

/-- Settles O45: the table, entry by entry. -/
theorem roundConstantsFollowRecurrence : Obligations.RoundConstantsFollowRecurrence := by
  refine ⟨rfl, fun i h1 h9 => ?_⟩
  obtain ⟨j, rfl⟩ := Nat.exists_eq_add_of_le' h1
  exact RC_succ j (by omega)

/-- R95: group 0 of a round key. -/
theorem keyRound_col_zero (prev : Block) (r : Nat) :
    (keyRound prev r).col 0 = (keyCore (prev.col 3) r).xor (prev.col 0) := rfl

/-- R95: the later groups of a round key. -/
theorem keyRound_col_of_ne_zero (prev : Block) (r : Nat) {g : Fin 4} (hg : g ≠ 0) :
    (keyRound prev r).col g = ((keyRound prev r).col (g - 1)).xor (prev.col g) := by
  match g with
  | 0 => exact absurd rfl hg
  | 1 | 2 | 3 => rfl

/-- R96: in the schedule each round key is `KeyRound` of the one before. -/
theorem expandKey_get_succ (key : Block) {r : Nat} (h : r < 10) :
    (expandKey key).get ⟨r + 1, by omega⟩ = keyRound ((expandKey key).get ⟨r, by omega⟩) (r + 1) := by
  rw [expandKey_get, expandKey_get, roundKeyOf]

/-- Settles O46: a round key of the schedule is `KeyRound` of the one before, which goes group by group. -/
theorem scheduleGroups : Obligations.ScheduleGroups := by
  refine fun key => ⟨expandKey_get key 0, fun r h => ?_⟩
  rw [expandKey_get_succ key h]
  exact ⟨keyRound_col_zero _ _, fun g hg => keyRound_col_of_ne_zero _ _ hg⟩

end Sys2Proof
end

section
/-!
SUPPORT. EXPAND_KEY: its take (spec/41_key_schedule.md R98), its micro-steps (R99), and the whole command: after each
micro-step one more round key of the key holds its value.
-/

namespace Sys2Proof.Machine

open Sys2Proof

/-! The take. -/

/-- R98: a ready core takes EXPAND_KEY. -/
theorem exec_expandKey_of_ready {s : State} (h : s.ready = true) :
    exec .expandKey s = .next (startExpand s.keyOperand s) :=
  whenReady_of_ready h _

/-- R98: RKS[0] holds the key after the take. -/
theorem startExpand_rks_zero (k : Block) (s : State) : (startExpand k s).rks.get 0 = .hold k := by
  simp

/-- R98: RKS[1] to RKS[10] hold ⊥ after the take. -/
theorem startExpand_rks_of_ne_zero (k : Block) (s : State) {r : Fin 11} (hr : r ≠ 0) :
    ((startExpand k s).rks.get r).written = false := by
  simp [hr]

/-- Settles O8: the take of a ready core, RKS entry by entry. -/
theorem expandKeyTake : Obligations.ExpandKeyTake := fun s hs =>
  ⟨_, exec_expandKey_of_ready hs, startExpand_rks_zero _ s, fun _ hr => startExpand_rks_of_ne_zero _ s hr, rfl⟩

/-! A micro-step. -/

/-- R99: a micro-step of EXPAND_KEY before the last. -/
theorem microStep_expandKey_of_lt {s : State} {prev : Block} (ho : s.opL = some .expandKey) (h1 : 1 ≤ s.rnd.toNat)
    (h10 : s.rnd.toNat < 10) (hp : s.roundKey (s.rnd.toNat - 1) = some prev) :
    microStep s = .next { s.writeRoundKey s.rnd.toNat (keyRound prev s.rnd.toNat) with rnd := s.rnd + 1#4 } := by
  rw [microStep, ho]
  exact (microExpandKey_of h1 (Nat.le_of_lt h10) hp).trans (by rw [if_neg (Nat.ne_of_lt h10)])

/-- R99: the last micro-step of EXPAND_KEY. -/
theorem microStep_expandKey_of_eq {s : State} {prev : Block} (ho : s.opL = some .expandKey) (h10 : s.rnd.toNat = 10)
    (hp : s.roundKey (s.rnd.toNat - 1) = some prev) :
    microStep s = .next (completeExpand (s.writeRoundKey s.rnd.toNat (keyRound prev s.rnd.toNat))) := by
  rw [microStep, ho]
  exact (microExpandKey_of (by omega) (Nat.le_of_eq h10) hp).trans (by rw [if_pos h10])

/-- R27: counting RND up within its range does not wrap. -/
theorem rnd_add_one {r : BitVec 4} (h : r.toNat < 10) : (r + 1#4).toNat = r.toNat + 1 := by
  bv_omega

/-- Settles O11: the invariant gives the round key that is read; RND then decides which micro-step it is. -/
theorem expandKeyMicroStep : Obligations.ExpandKeyMicroStep := by
  intro s hi ho
  obtain ⟨h1, h10⟩ := (State.roundInRange_of_expandKey ho).1 hi.round
  obtain ⟨-, key, hkeys⟩ := hi.expanding ho
  have hp := hkeys (s.rnd.toNat - 1) (by omega)
  have written := fun b => roundKey_write_same s (r := s.rnd.toNat) (by omega) b
  have others := fun b r (hr : r ≠ s.rnd.toNat) => roundKey_write_other s hr.symm b
  rcases Nat.lt_or_eq_of_le h10 with hlt | heq
  · exact ⟨_, _, hp, microStep_expandKey_of_lt ho h1 hlt hp, written _, others _, fun _ => ⟨rnd_add_one hlt, rfl⟩,
      fun heq => absurd heq (Nat.ne_of_lt hlt)⟩
  · exact ⟨_, _, hp, microStep_expandKey_of_eq ho heq hp, written _, others _,
      fun hlt => absurd heq (Nat.ne_of_lt hlt),
      fun _ => rfl⟩

/-! The whole command. -/

/-- `v` is on the way from the take of EXPAND_KEY with `key` in `s`: RND is `n`, the round keys below `n` are those of
`key`, and nothing but RKS and RND has changed since the take. -/
structure ExpandingFrom (s : State) (key : Block) (n : Nat) (v : State) : Prop where
  rnd   : v.rnd.toNat = n
  keys  : ∀ r, r < n → v.roundKey r = some (roundKeyOf key r)
  frame : v = { startExpand key s with rks := v.rks, rnd := v.rnd }

section
variable {s v : State} {key : Block} {n : Nat}

theorem ExpandingFrom.opL (h : ExpandingFrom s key n v) : v.opL = some .expandKey := congrArg State.opL h.frame

theorem ExpandingFrom.busy (h : ExpandingFrom s key n v) : v.busy = true := congrArg State.busy h.frame

theorem ExpandingFrom.keyValid (h : ExpandingFrom s key n v) : v.keyValid = false := congrArg State.keyValid h.frame

/-- R99: the round key below RND is there to be read. -/
theorem ExpandingFrom.prev (h : ExpandingFrom s key n v) (h1 : 1 ≤ n) :
    v.roundKey (v.rnd.toNat - 1) = some (roundKeyOf key (n - 1)) :=
  h.rnd ▸ h.keys (n - 1) (by omega)

/-- R98: the take leaves RND at 1 and the key in RKS[0]. -/
theorem ExpandingFrom.start (s : State) (key : Block) : ExpandingFrom s key 1 (startExpand key s) where
  rnd := rfl
  keys r hr := by
    obtain rfl : r = 0 := Nat.lt_one_iff.1 hr
    exact (roundKey_fin _ 0).trans (congrArg BlockReg.value (startExpand_rks_zero key s))
  frame := rfl

/-- R99: a micro-step before the last adds one round key. -/
theorem ExpandingFrom.next (h : ExpandingFrom s key n v) (h1 : 1 ≤ n) (h10 : n < 10) :
    ∃ w, microStep v = .next w ∧ ExpandingFrom s key (n + 1) w := by
  obtain rfl := h.rnd
  refine ⟨_, microStep_expandKey_of_lt h.opL h1 h10 (h.prev h1), rnd_add_one h10, ?_, ?_⟩
  · exact roundKeys_write_keyRound h1 (Nat.le_of_lt h10) h.keys (h.prev h1)
  · rw [h.frame]
    rfl

/-- R96, R99: the last micro-step leaves the whole schedule of `key` in RKS and the core idle with a valid key. -/
theorem ExpandingFrom.completes (h : ExpandingFrom s key 10 v) :
    ∃ w, microStep v = .next w ∧
      w = { s with rks := holdSchedule (expandKey key), keyValid := true, err := .ok, busy := false, opL := none,
                   rnd := 0#4, free := w.free } := by
  have hstep := microStep_expandKey_of_eq h.opL h.rnd (h.prev (by decide))
  rw [h.rnd] at hstep
  have hrks : (v.writeRoundKey 10 (keyRound (roundKeyOf key 9) 10)).rks = holdSchedule (expandKey key) :=
    eq_holdSchedule fun r => by
      rw [expandKey_get]
      exact roundKeys_write_keyRound (by decide) (by decide) h.keys (h.keys 9 (by decide)) r.val r.isLt
  refine ⟨_, hstep, ?_⟩
  rw [← hrks]
  rw [h.frame]
  rfl

/-- R99: up to the ninth, each micro-step adds one round key. -/
theorem expandingFrom_microSteps (s : State) (key : Block) (hn : n < 10) :
    ∃ v, microSteps n (startExpand key s) = .next v ∧ ExpandingFrom s key (n + 1) v := by
  induction n with
  | zero => exact ⟨_, rfl, .start s key⟩
  | succ n ih =>
    obtain ⟨v, hv, hexp⟩ := ih (by omega)
    obtain ⟨w, hw, hexp'⟩ := hexp.next (by omega) hn
    exact ⟨w, (microSteps_add_one hv).trans hw, hexp'⟩

end

/-- Settles O14: by induction on the micro-steps, each adding one round key; the tenth completes the schedule. -/
theorem expandKeyRunsToCompletion : Obligations.ExpandKeyRunsToCompletion := by
  intro s hs
  obtain ⟨v, hv, hexp⟩ := expandingFrom_microSteps s s.keyOperand (n := 9) (by decide)
  obtain ⟨u, hu, hfinal⟩ := hexp.completes
  refine ⟨_, u, exec_expandKey_of_ready hs, rfl, fun n hn => ?_, (microSteps_add_one hv).trans hu, hfinal⟩
  obtain ⟨w, hw, hexp'⟩ := expandingFrom_microSteps s s.keyOperand hn
  exact ⟨w, hw, hexp'.busy, hexp'.keyValid⟩

end Sys2Proof.Machine
end

section
/-!
SUPPORT. The encryption datapath (spec/42_encrypt.md R111, R112): ShiftRows and its inverse by rows and columns and by
flat indices, MixColumn byte by byte.
-/

namespace Sys2Proof

/-! ShiftRows. -/

/-- R15: the byte in row `r` and column `c`, by its flat index. -/
theorem Block.byte_eq_elem (s : Block) {i : Fin 16} {r c : Fin 4} (hr : i.val % 4 = r.val) (hc : i.val / 4 = c.val) :
    s.byte i = s.elem r c :=
  congr (congrArg s.elem (Fin.ext hr)) (Fin.ext hc)

@[simp] theorem shiftRows_elem (s : Block) (r c : Fin 4) : (shiftRows s).elem r c = s.elem r (c + r) :=
  Block.ofMatrix_elem _ r c

@[simp] theorem invShiftRows_elem (s : Block) (r c : Fin 4) : (invShiftRows s).elem r c = s.elem r (c - r) :=
  Block.ofMatrix_elem _ r c

/-- Columns are counted mod 4, so moving by `r` and back comes to the same column. -/
theorem col_sub_add_cancel : ∀ c r : Fin 4, c - r + r = c := by decide

theorem col_add_sub_cancel : ∀ c r : Fin 4, c + r - r = c := by decide

/-- A rotation to the left by `r` is undone by one to the right. -/
@[simp] theorem invShiftRows_shiftRows (s : Block) : invShiftRows (shiftRows s) = s := by
  rw [invShiftRows]
  simp only [shiftRows_elem, col_sub_add_cancel]
  exact s.ofMatrix_of_elem

@[simp] theorem shiftRows_invShiftRows (s : Block) : shiftRows (invShiftRows s) = s := by
  rw [shiftRows]
  simp only [invShiftRows_elem, col_add_sub_cancel]
  exact s.ofMatrix_of_elem

/-- R111: the permutation P. -/
def shiftRowsIndex : Vector (Fin 16) 16 := #v[0, 5, 10, 15, 4, 9, 14, 3, 8, 13, 2, 7, 12, 1, 6, 11]

/-- R131: the permutation Q. -/
def invShiftRowsIndex : Vector (Fin 16) 16 := #v[0, 13, 10, 7, 4, 1, 14, 11, 8, 5, 2, 15, 12, 9, 6, 3]

/-- P stays in its row `i mod 4` and moves the column by it. -/
theorem shiftRowsIndex_row_col : ∀ i : Fin 16, (shiftRowsIndex.get i).val % 4 = i.val % 4 ∧
    (shiftRowsIndex.get i).val / 4 = (i.val / 4 + i.val % 4) % 4 := by decide

/-- Q stays in its row `i mod 4` and moves the column back by it. -/
theorem invShiftRowsIndex_row_col : ∀ i : Fin 16, (invShiftRowsIndex.get i).val % 4 = i.val % 4 ∧
    (invShiftRowsIndex.get i).val / 4 = (4 - i.val % 4 + i.val / 4) % 4 := by decide

theorem shiftRows_byte (s : Block) (i : Fin 16) : (shiftRows s).byte i = s.byte (shiftRowsIndex.get i) := by
  obtain ⟨hr, hc⟩ := shiftRowsIndex_row_col i
  exact (shiftRows_elem s _ _).trans (s.byte_eq_elem hr hc).symm

theorem invShiftRows_byte (s : Block) (i : Fin 16) : (invShiftRows s).byte i = s.byte (invShiftRowsIndex.get i) := by
  obtain ⟨hr, hc⟩ := invShiftRowsIndex_row_col i
  exact (invShiftRows_elem s _ _).trans (s.byte_eq_elem hr hc).symm

/-- Settles O50: P and Q move a byte within its row as the two rotations do, and the rotations cancel. -/
theorem shiftRowsPermutesBytes : Obligations.ShiftRowsPermutesBytes :=
  ⟨fun s i => ⟨shiftRows_byte s i, invShiftRows_byte s i⟩,
    fun s => ⟨invShiftRows_shiftRows s, shiftRows_invShiftRows s⟩⟩

/-! MixColumn. -/

/-- R112 from byte `i` on: the sum of the column does not depend on where it begins. -/
theorem mixColumn_byte (w : Word) (i : Fin 4) :
    (mixColumn w).byte i = w.byte i ^^^ w.byte (i + 1) ^^^ w.byte (i + 2) ^^^ w.byte (i + 3) ^^^ w.byte i ^^^
      mul2 (w.byte i ^^^ w.byte (i + 1)) := by
  have rotate : ∀ a b c d : Byte, a ^^^ b ^^^ c ^^^ d = b ^^^ c ^^^ d ^^^ a := fun a b c d => by ac_rfl
  match i with
  | 0 => rfl
  | 1 => exact congrArg (· ^^^ w.b1 ^^^ _) (rotate w.b0 w.b1 w.b2 w.b3)
  | 2 => exact congrArg (· ^^^ w.b2 ^^^ _) ((rotate w.b0 w.b1 w.b2 w.b3).trans (rotate w.b1 w.b2 w.b3 w.b0))
  | 3 => exact congrArg (· ^^^ w.b3 ^^^ _) (rotate w.b3 w.b0 w.b1 w.b2).symm

/-- R75: tripling is the product by 3. -/
theorem mul3_eq_gmul (a : Byte) : mul3 a = gmul a 0x03#8 := by
  obtain ⟨-, h3, -⟩ := multiplierChainsAreFieldProducts a
  exact h3

/-- Settles O47: byte `i` cancels against the column's sum, and what is left of `mul2` is a doubling and a tripling. -/
theorem mixColumnIsMatrixProduct : Obligations.MixColumnIsMatrixProduct := by
  intro w i
  rw [mixColumn_byte, ← mul2_eq_gmul, ← mul3_eq_gmul, mul3, mul2_xor]
  generalize w.byte i = a, w.byte (i + 1) = b, w.byte (i + 2) = c, w.byte (i + 3) = d
  calc a ^^^ b ^^^ c ^^^ d ^^^ a ^^^ (mul2 a ^^^ mul2 b)
      _ = (a ^^^ a) ^^^ (mul2 a ^^^ (mul2 b ^^^ b) ^^^ c ^^^ d) := by ac_rfl
      _ = mul2 a ^^^ (mul2 b ^^^ b) ^^^ c ^^^ d := by rw [BitVec.xor_self, BitVec.zero_xor]

end Sys2Proof
end

section
/-!
SUPPORT. ENCRYPT: its take (spec/42_encrypt.md R119), its micro-steps (R120), and the whole command: after each
micro-step ST is one round further along the block transform (R118).
-/

namespace Sys2Proof.Machine

open Sys2Proof

/-! The take. -/

/-- R119: a ready core with a valid key takes ENCRYPT. -/
theorem exec_encrypt_of_ready {s : State} (h : s.ready = true) (hk : s.keyValid = true) :
    exec .encrypt s = .next (startBlock .encrypt s.blockOperand 0#4 s) :=
  (whenReady_of_ready h _).trans (by rw [if_pos hk])

/-- Settles O9: the take of a ready core with a valid key. -/
theorem encryptTake : Obligations.EncryptTake := fun _ hs hk => exec_encrypt_of_ready hs hk

/-! A micro-step. -/

section
variable {s : State} {b k : Block} (ho : s.opL = some .encrypt) (hst : s.st = .hold b)
  (hk : s.roundKey s.rnd.toNat = some k)
include ho hst hk

/-- R120: a micro-step of ENCRYPT with its reads in hand. -/
theorem microStep_encrypt_of_le (h10 : s.rnd.toNat ≤ 10) :
    microStep s =
      .next (if s.rnd.toNat = 0 then nextRound (encRound0 b k) 1#4 s
        else if s.rnd.toNat ≤ 9 then nextRound (encRound b k) (s.rnd + 1#4) s
        else completeBlock (encFinal b k) s) := by
  rw [microStep, ho]
  exact microEncrypt_of h10 (value_eq_some.2 hst) hk

/-- R120: the first micro-step of ENCRYPT whitens. -/
theorem microStep_encrypt_of_zero (h0 : s.rnd.toNat = 0) : microStep s = .next (nextRound (encRound0 b k) 1#4 s) := by
  rw [microStep_encrypt_of_le ho hst hk (by omega), if_pos h0]

/-- R120: the micro-steps between the first and the last are full rounds. -/
theorem microStep_encrypt_of_le_nine (h1 : 1 ≤ s.rnd.toNat) (h9 : s.rnd.toNat ≤ 9) :
    microStep s = .next (nextRound (encRound b k) (s.rnd + 1#4) s) := by
  rw [microStep_encrypt_of_le ho hst hk (by omega), if_neg (by omega), if_pos h9]

/-- R120: the last micro-step of ENCRYPT is the final round and completes it. -/
theorem microStep_encrypt_of_ten (h10 : s.rnd.toNat = 10) : microStep s = .next (completeBlock (encFinal b k) s) := by
  rw [microStep_encrypt_of_le ho hst hk (by omega), if_neg (by omega), if_neg (by omega)]

end

/-- R27: RND of a block command is within 0..10. -/
theorem Inv.rnd_le_of_block {s : State} (hi : Inv s) (hb : s.BlockInFlight) : s.rnd.toNat ≤ 10 := by
  have hr := hi.round
  rcases hb with ho | ho <;> simpa [State.RoundInRange, ho] using hr

/-- Settles O12: the invariant gives the two registers that are read; RND then decides which micro-step it is. -/
theorem encryptMicroStep : Obligations.EncryptMicroStep := by
  intro s hi ho
  have hle := hi.rnd_le_of_block (.inl ho)
  obtain ⟨b, k, hst, hk⟩ := hi.block_reads (.inl ho) hle
  rw [value_eq_some] at hst
  have hcases : s.rnd.toNat = 0 ∨ (1 ≤ s.rnd.toNat ∧ s.rnd.toNat ≤ 9) ∨ s.rnd.toNat = 10 := by omega
  rcases hcases with h0 | ⟨h1, h9⟩ | h10
  · exact ⟨b, k, _, hst, hk, microStep_encrypt_of_zero ho hst hk h0, fun _ => rfl,
      fun h => absurd h (by omega), fun h => absurd h (by omega)⟩
  · exact ⟨b, k, _, hst, hk, microStep_encrypt_of_le_nine ho hst hk h1 h9, fun h => absurd h (by omega),
      fun _ => ⟨rnd_add_one (by omega), rfl⟩, fun h => absurd h (by omega)⟩
  · exact ⟨b, k, _, hst, hk, microStep_encrypt_of_ten ho hst hk h10, fun h => absurd h (by omega),
      fun h => absurd h (by omega), fun _ => rfl⟩

/-! The whole command. -/

/-- R118: the block transform of `p` under `rks` after its whitening and its full rounds below `n`. -/
def encRounds (rks : Schedule) (p : Block) : Nat → Block
  | 0 => p
  | 1 => encRound0 p (rks.get 0)
  | n + 2 => encRound (encRounds rks p (n + 1)) (rks.get (Fin.ofNat 11 (n + 1)))

/-- R118: the whole transform is the final round after the nine full ones. -/
theorem encrypt_eq_encFinal (rks : Schedule) (p : Block) :
    encrypt rks p = encFinal (encRounds rks p 10) (rks.get 10) := rfl

/-- The state `n` micro-steps after the take of ENCRYPT in `s`, which holds the schedule `rks`. -/
def encryptingState (s : State) (rks : Schedule) (n : Nat) : State :=
  nextRound (encRounds rks s.blockOperand n) (BitVec.ofNat 4 n) (startBlock .encrypt s.blockOperand 0#4 s)

/-- A state that holds the whole schedule reads round key `n`. -/
theorem roundKey_ofNat_of_holdSchedule {s : State} {rks : Schedule} (h : s.rks = holdSchedule rks) {n : Nat}
    (hn : n ≤ 10) : s.roundKey n = some (rks.get (Fin.ofNat 11 n)) := by
  have hread := roundKey_of_holdSchedule h (Fin.ofNat 11 n)
  rwa [Fin.val_ofNat, Nat.mod_eq_of_lt (by omega)] at hread

section
variable {s : State} {rks : Schedule} {n : Nat}

theorem encryptingState_rnd (hn : n ≤ 10) : (encryptingState s rks n).rnd.toNat = n :=
  (BitVec.toNat_ofNat n 4).trans (Nat.mod_eq_of_lt (by omega))

variable (h : s.rks = holdSchedule rks)
include h

theorem encryptingState_roundKey (hn : n ≤ 10) :
    (encryptingState s rks n).roundKey (encryptingState s rks n).rnd.toNat = some (rks.get (Fin.ofNat 11 n)) := by
  rw [encryptingState_rnd hn]
  exact roundKey_ofNat_of_holdSchedule (s := encryptingState s rks n) h hn

/-- R120: a micro-step before the last takes ST one round further. -/
theorem microStep_encryptingState (hn : n < 10) :
    microStep (encryptingState s rks n) = .next (encryptingState s rks (n + 1)) := by
  have hrnd := encryptingState_rnd (s := s) (rks := rks) (Nat.le_of_lt hn)
  have hkey := encryptingState_roundKey h (Nat.le_of_lt hn)
  cases n with
  | zero => exact microStep_encrypt_of_zero rfl rfl hkey hrnd
  | succ n =>
    rw [microStep_encrypt_of_le_nine rfl rfl hkey (by omega) (by omega)]
    exact congrArg (fun r => Host.Outcome.next (nextRound _ r _)) (BitVec.ofNat_add (n + 1) 1).symm

/-- R120: the last micro-step completes with the transform of the block in ST and DOUT. -/
theorem microStep_encryptingState_ten :
    microStep (encryptingState s rks 10) =
      .next (completeBlock (encrypt rks s.blockOperand) (encryptingState s rks 10)) :=
  microStep_encrypt_of_ten rfl rfl (encryptingState_roundKey h (Nat.le_refl 10)) (encryptingState_rnd (Nat.le_refl 10))

/-- R120: up to the tenth, each micro-step takes ST one round further. -/
theorem microSteps_startBlock_encrypt (hn : n ≤ 10) :
    microSteps n (startBlock .encrypt s.blockOperand 0#4 s) = .next (encryptingState s rks n) := by
  induction n with
  | zero => rfl
  | succ n ih => exact (microSteps_add_one (ih (by omega))).trans (microStep_encryptingState h hn)

end

/-- Settles O15: by induction on the micro-steps, each one round of the transform; the eleventh completes it. -/
theorem encryptRunsToCompletion : Obligations.EncryptRunsToCompletion := by
  intro s rks hs hkv h
  refine ⟨_, _, exec_encrypt_of_ready hs hkv, rfl, fun n hn => ?_,
    (microSteps_add_one (microSteps_startBlock_encrypt h (Nat.le_refl 10))).trans (microStep_encryptingState_ten h), rfl⟩
  exact ⟨_, microSteps_startBlock_encrypt h (by omega), rfl, rfl⟩

end Sys2Proof.Machine
end

section
/-!
SUPPORT. The decryption datapath (spec/43_decrypt.md R130 to R139): MixColumn and InvMixColumn as circulant matrices, whose
products are circulant again, and each inverse transformation and round undoing its forward one.
-/

namespace Sys2Proof

/-! Circulant matrices over GF(2^8). -/

/-- A word is its four bytes. -/
theorem Word.ext_byte {v w : Word} (h : ∀ i, v.byte i = w.byte i) : v = w :=
  congrArg Word.ofBytes (funext h)

/-- The product of the circulant matrix with first row `m` and the column `w` (R112, R132). -/
def circulant (m w : Word) : Word := .ofBytes fun i =>
  gmul (w.byte i) m.b0 ^^^ gmul (w.byte (i + 1)) m.b1 ^^^ gmul (w.byte (i + 2)) m.b2 ^^^ gmul (w.byte (i + 3)) m.b3

/-- The first row of the product of the circulant matrices with first rows `m` and `n`: their cyclic convolution. -/
def circulantMul (m n : Word) : Word where
  b0 := gmul n.b0 m.b0 ^^^ gmul n.b3 m.b1 ^^^ gmul n.b2 m.b2 ^^^ gmul n.b1 m.b3
  b1 := gmul n.b1 m.b0 ^^^ gmul n.b0 m.b1 ^^^ gmul n.b3 m.b2 ^^^ gmul n.b2 m.b3
  b2 := gmul n.b2 m.b0 ^^^ gmul n.b1 m.b1 ^^^ gmul n.b0 m.b2 ^^^ gmul n.b3 m.b3
  b3 := gmul n.b3 m.b0 ^^^ gmul n.b2 m.b1 ^^^ gmul n.b1 m.b2 ^^^ gmul n.b0 m.b3

@[simp] theorem circulant_byte (m w : Word) (i : Fin 4) :
    (circulant m w).byte i = gmul (w.byte i) m.b0 ^^^ gmul (w.byte (i + 1)) m.b1 ^^^ gmul (w.byte (i + 2)) m.b2 ^^^
      gmul (w.byte (i + 3)) m.b3 :=
  Word.ofBytes_byte _ i

/-- Byte indices are counted mod 4. -/
theorem byteIndex_add_add : ∀ i : Fin 4, i + 1 + 1 = i + 2 ∧ i + 1 + 2 = i + 3 ∧ i + 1 + 3 = i ∧ i + 2 + 1 = i + 3 ∧
    i + 2 + 2 = i ∧ i + 2 + 3 = i + 1 ∧ i + 3 + 1 = i ∧ i + 3 + 2 = i + 1 ∧ i + 3 + 3 = i + 2 := by decide

/-- Applying two circulant matrices is applying their product: the sixteen terms of each byte, gathered by the byte of `w`. -/
theorem circulant_circulant (m n w : Word) : circulant m (circulant n w) = circulant (circulantMul m n) w := by
  apply Word.ext_byte
  intro i
  simp only [circulant_byte, circulantMul, gmul_xor_left, gmul_xor_right, gmul_assoc, byteIndex_add_add]
  ac_rfl

/-- The matrix with first row [01 00 00 00] is the identity. -/
theorem circulant_one (w : Word) : circulant ⟨0x01#8, 0x00#8, 0x00#8, 0x00#8⟩ w = w :=
  Word.ext_byte fun i => by simp [gmul_one, gmul_zero]

/-! InvMixColumn. -/

/-- R132 from byte `i` on. -/
theorem invMixColumn_byte (w : Word) (i : Fin 4) :
    (invMixColumn w).byte i =
      mul14 (w.byte i) ^^^ mul11 (w.byte (i + 1)) ^^^ mul13 (w.byte (i + 2)) ^^^ mul9 (w.byte (i + 3)) := by
  have rotate : ∀ a b c d : Byte, a ^^^ b ^^^ c ^^^ d = b ^^^ c ^^^ d ^^^ a := fun a b c d => by ac_rfl
  match i with
  | 0 => rfl
  | 1 => exact rotate (mul9 w.b0) (mul14 w.b1) (mul11 w.b2) (mul13 w.b3)
  | 2 =>
    exact (rotate (mul13 w.b0) (mul9 w.b1) (mul14 w.b2) (mul11 w.b3)).trans
      (rotate (mul9 w.b1) (mul14 w.b2) (mul11 w.b3) (mul13 w.b0))
  | 3 => exact (rotate (mul14 w.b3) (mul11 w.b0) (mul13 w.b1) (mul9 w.b2)).symm

/-- R77: the four chains of InvMixColumn are products. -/
theorem invMixColumn_chains_eq_gmul (a : Byte) : mul9 a = gmul a 0x09#8 ∧ mul11 a = gmul a 0x0B#8 ∧
    mul13 a = gmul a 0x0D#8 ∧ mul14 a = gmul a 0x0E#8 := by
  obtain ⟨-, -, -, -, hchains⟩ := multiplierChainsAreFieldProducts a
  exact hchains

/-- R132: InvMixColumn is the circulant matrix with first row [0E 0B 0D 09]. -/
theorem invMixColumn_eq_circulant (w : Word) : invMixColumn w = circulant ⟨0x0E#8, 0x0B#8, 0x0D#8, 0x09#8⟩ w :=
  Word.ext_byte fun i => by simp only [invMixColumn_byte, invMixColumn_chains_eq_gmul, circulant_byte]

/-- R112: MixColumn is the circulant matrix with first row [02 03 01 01]. -/
theorem mixColumn_eq_circulant (w : Word) : mixColumn w = circulant ⟨0x02#8, 0x03#8, 0x01#8, 0x01#8⟩ w :=
  Word.ext_byte fun i => by rw [mixColumnIsMatrixProduct, circulant_byte, gmul_one, gmul_one]

/-- R132: the product of the two matrices is the identity. -/
@[simp] theorem invMixColumn_mixColumn (w : Word) : invMixColumn (mixColumn w) = w := by
  have hmul : circulantMul ⟨0x0E#8, 0x0B#8, 0x0D#8, 0x09#8⟩ ⟨0x02#8, 0x03#8, 0x01#8, 0x01#8⟩ =
    ⟨0x01#8, 0x00#8, 0x00#8, 0x00#8⟩ := by decide
  rw [invMixColumn_eq_circulant, mixColumn_eq_circulant, circulant_circulant, hmul, circulant_one]

@[simp] theorem mixColumn_invMixColumn (w : Word) : mixColumn (invMixColumn w) = w := by
  have hmul : circulantMul ⟨0x02#8, 0x03#8, 0x01#8, 0x01#8⟩ ⟨0x0E#8, 0x0B#8, 0x0D#8, 0x09#8⟩ =
    ⟨0x01#8, 0x00#8, 0x00#8, 0x00#8⟩ := by decide
  rw [invMixColumn_eq_circulant, mixColumn_eq_circulant, circulant_circulant, hmul, circulant_one]

/-- Settles O48: the chains are the products by the row's coefficients, and the two circulant matrices multiply to the
identity in either order. -/
theorem invMixColumnInvertsMixColumn : Obligations.InvMixColumnInvertsMixColumn :=
  ⟨fun w i => by rw [invMixColumn_eq_circulant, circulant_byte], invMixColumn_mixColumn, mixColumn_invMixColumn⟩

/-- R133: adding four times the sum of two bytes to the first one multiplies them by 5 and 4. -/
theorem xor_mul4_xor (a b : Byte) : a ^^^ mul2 (mul2 (a ^^^ b)) = gmul a 0x05#8 ^^^ gmul b 0x04#8 :=
  calc a ^^^ mul4 (a ^^^ b)
      _ = gmul a 0x04#8 ^^^ a ^^^ gmul b 0x04#8 := by rw [mul4_eq_gmul, gmul_xor_left]; ac_rfl
      _ = gmul a 0x05#8 ^^^ gmul b 0x04#8 := by rw [gmul_xor_self]; rfl

/-- R133: the factored form is MixColumn after the circulant matrix with first row [05 00 04 00]. -/
theorem invMixColumnFactored_eq (w : Word) :
    invMixColumnFactored w = mixColumn (circulant ⟨0x05#8, 0x00#8, 0x04#8, 0x00#8⟩ w) := by
  apply congrArg mixColumn
  apply Word.ext_byte
  intro i
  have pair : ∀ a b : Byte, a ^^^ mul2 (mul2 (b ^^^ a)) = gmul a 0x05#8 ^^^ gmul b 0x04#8 := fun a b => by
    rw [BitVec.xor_comm b a, xor_mul4_xor]
  rw [circulant_byte]
  simp only [gmul_zero, BitVec.xor_zero]
  match i with
  | 0 => exact xor_mul4_xor w.b0 w.b2
  | 1 => exact xor_mul4_xor w.b1 w.b3
  | 2 => exact pair w.b2 w.b0
  | 3 => exact pair w.b3 w.b1

/-- Settles O49: the product of the two matrices of the factored form is that of InvMixColumn. -/
theorem factoredInvMixColumnAgrees : Obligations.FactoredInvMixColumnAgrees := by
  intro w
  have hmul : circulantMul ⟨0x02#8, 0x03#8, 0x01#8, 0x01#8⟩ ⟨0x05#8, 0x00#8, 0x04#8, 0x00#8⟩ =
    ⟨0x0E#8, 0x0B#8, 0x0D#8, 0x09#8⟩ := by decide
  rw [invMixColumnFactored_eq, mixColumn_eq_circulant, circulant_circulant, hmul, invMixColumn_eq_circulant]

/-! The inverse transformations of a block. -/

@[simp] theorem Block.map_elem (f : Byte → Byte) (s : Block) (r c : Fin 4) : (s.map f).elem r c = f (s.elem r c) := by
  match r, c with
  | 0, 0 | 0, 1 | 0, 2 | 0, 3 | 1, 0 | 1, 1 | 1, 2 | 1, 3
  | 2, 0 | 2, 1 | 2, 2 | 2, 3 | 3, 0 | 3, 1 | 3, 2 | 3, 3 => rfl

/-- A block is the matrix of its elements. -/
theorem Block.ext_elem {s t : Block} (h : ∀ r c, s.elem r c = t.elem r c) : s = t :=
  congrArg Block.ofMatrix (funext fun r => funext (h r))

@[simp] theorem invSubBytes_subBytes (s : Block) : invSubBytes (subBytes s) = s := map_map INV_SBOX_SBOX

@[simp] theorem subBytes_invSubBytes (s : Block) : subBytes (invSubBytes s) = s := map_map SBOX_INV_SBOX

@[simp] theorem invMixColumns_mixColumns (s : Block) : invMixColumns (mixColumns s) = s :=
  mapCols_mapCols invMixColumn_mixColumn

@[simp] theorem mixColumns_invMixColumns (s : Block) : mixColumns (invMixColumns s) = s :=
  mapCols_mapCols mixColumn_invMixColumn

/-- R116: SubBytes changes each byte by itself and ShiftRows only moves bytes. -/
theorem subBytes_shiftRows (s : Block) : subBytes (shiftRows s) = shiftRows (subBytes s) :=
  Block.ext_elem fun r c => by rw [subBytes, Block.map_elem, shiftRows_elem, shiftRows_elem, subBytes, Block.map_elem]

/-- Settles O51: byte by byte from the tables, column by column from the two matrices. -/
theorem inverseTransformsCancel : Obligations.InverseTransformsCancel := fun s =>
  ⟨invSubBytes_subBytes s, subBytes_invSubBytes s, invMixColumns_mixColumns s, mixColumns_invMixColumns s,
    subBytes_shiftRows s⟩

/-! The inverse rounds. -/

/-- R135, R117: the start of decryption undoes the final round. -/
theorem decStart_encFinal (s k : Block) : decStart (encFinal s k) k = s := by
  simp [decStart, encFinal]

theorem encFinal_decStart (s k : Block) : encFinal (decStart s k) k = s := by
  simp [decStart, encFinal]

/-- R136, R116: a decryption round undoes a full round with the same key. -/
theorem decRound_encRound (s k : Block) : decRound (encRound s k) k = s := by
  simp [decRound, encRound]

theorem encRound_decRound (s k : Block) : encRound (decRound s k) k = s := by
  simp [decRound, encRound]

/-- R137, R115: the final whitening undoes the initial one. -/
theorem decFinal_encRound0 (s k : Block) : decFinal (encRound0 s k) k = s := addRoundKey_twice s k

theorem encRound0_decFinal (s k : Block) : encRound0 (decFinal s k) k = s := addRoundKey_twice s k

/-- Rounds that undo each other under one round key do so along a list of round keys, taken in reverse. -/
theorem foldl_reverse_rounds {f g : Block → Block → Block} (h : ∀ s k, g (f s k) k = s) (rks : Schedule)
    (l : List (Fin 11)) (s : Block) :
    l.reverse.foldl (fun s r => g s (rks.get r)) (l.foldl (fun s r => f s (rks.get r)) s) = s := by
  induction l generalizing s with
  | nil => rfl
  | cons r l ih => rw [List.foldl_cons, List.reverse_cons, List.foldl_append, ih, List.foldl_cons, List.foldl_nil, h]

/-- R139 for every schedule: from the last round to the first, each round of decryption undoes its own of encryption. -/
theorem decrypt_encrypt (rks : Schedule) (p : Block) : decrypt rks (encrypt rks p) = p := by
  have rounds := foldl_reverse_rounds decRound_encRound rks [1, 2, 3, 4, 5, 6, 7, 8, 9]
  simp only [decrypt, encrypt, decStart_encFinal]
  exact (congrArg (decFinal · _) (rounds _)).trans (decFinal_encRound0 p _)

/-- The reverse of R139: from the last round of decryption to the first. -/
theorem encrypt_decrypt (rks : Schedule) (c : Block) : encrypt rks (decrypt rks c) = c := by
  have rounds := foldl_reverse_rounds encRound_decRound rks [9, 8, 7, 6, 5, 4, 3, 2, 1]
  simp only [decrypt, encrypt, encRound0_decFinal]
  exact (congrArg (encFinal · _) (rounds _)).trans (encFinal_decStart c _)

/-- Settles O18: the rounds undo each other one by one under every schedule, that of an expanded key among them. -/
theorem decryptInvertsEncrypt : Obligations.DecryptInvertsEncrypt :=
  ⟨fun K P => decrypt_encrypt (expandKey K) P, decrypt_encrypt, encrypt_decrypt⟩

end Sys2Proof
end

section
/-!
SUPPORT. DECRYPT: its take (spec/43_decrypt.md R141), its micro-steps (R142), the whole command: after each micro-step ST
is one round further along the block transform (R138); and the round trip of a block through the ports (R139).
-/

namespace Sys2Proof.Machine

open Sys2Proof

/-! The take. -/

/-- R141: a ready core with a valid key takes DECRYPT. -/
theorem exec_decrypt_of_ready {s : State} (h : s.ready = true) (hk : s.keyValid = true) :
    exec .decrypt s = .next (startBlock .decrypt s.blockOperand 10#4 s) :=
  (whenReady_of_ready h _).trans (by rw [if_pos hk])

/-- Settles O10: the take of a ready core with a valid key. -/
theorem decryptTake : Obligations.DecryptTake := fun _ hs hk => exec_decrypt_of_ready hs hk

/-! A micro-step. -/

section
variable {s : State} {b k : Block} (ho : s.opL = some .decrypt) (hst : s.st = .hold b)
  (hk : s.roundKey s.rnd.toNat = some k)
include ho hst hk

/-- R142: a micro-step of DECRYPT with its reads in hand. -/
theorem microStep_decrypt_of_le (h10 : s.rnd.toNat ≤ 10) :
    microStep s =
      .next (if s.rnd.toNat = 10 then nextRound (decStart b k) 9#4 s
        else if 1 ≤ s.rnd.toNat then nextRound (decRound b k) (s.rnd - 1#4) s
        else completeBlock (decFinal b k) s) := by
  rw [microStep, ho]
  exact microDecrypt_of h10 (value_eq_some.2 hst) hk

/-- R142: the first micro-step of DECRYPT is the start. -/
theorem microStep_decrypt_of_ten (h10 : s.rnd.toNat = 10) : microStep s = .next (nextRound (decStart b k) 9#4 s) := by
  rw [microStep_decrypt_of_le ho hst hk (by omega), if_pos h10]

/-- R142: the micro-steps between the first and the last are decryption rounds. -/
theorem microStep_decrypt_of_le_nine (h1 : 1 ≤ s.rnd.toNat) (h9 : s.rnd.toNat ≤ 9) :
    microStep s = .next (nextRound (decRound b k) (s.rnd - 1#4) s) := by
  rw [microStep_decrypt_of_le ho hst hk (by omega), if_neg (by omega), if_pos h1]

/-- R142: the last micro-step of DECRYPT is the final whitening and completes it. -/
theorem microStep_decrypt_of_zero (h0 : s.rnd.toNat = 0) : microStep s = .next (completeBlock (decFinal b k) s) := by
  rw [microStep_decrypt_of_le ho hst hk (by omega), if_neg (by omega), if_neg (by omega)]

end

/-- R27: counting RND down from above 0 does not wrap. -/
theorem rnd_sub_one {r : BitVec 4} (h : 1 ≤ r.toNat) : (r - 1#4).toNat + 1 = r.toNat := by
  bv_omega

/-- Settles O13: the invariant gives the two registers that are read; RND then decides which micro-step it is. -/
theorem decryptMicroStep : Obligations.DecryptMicroStep := by
  intro s hi ho
  have hle := hi.rnd_le_of_block (.inr ho)
  obtain ⟨b, k, hst, hk⟩ := hi.block_reads (.inr ho) hle
  rw [value_eq_some] at hst
  have hcases : s.rnd.toNat = 10 ∨ (1 ≤ s.rnd.toNat ∧ s.rnd.toNat ≤ 9) ∨ s.rnd.toNat = 0 := by omega
  rcases hcases with h10 | ⟨h1, h9⟩ | h0
  · exact ⟨b, k, _, hst, hk, microStep_decrypt_of_ten ho hst hk h10, fun _ => rfl,
      fun h => absurd h (by omega), fun h => absurd h (by omega)⟩
  · exact ⟨b, k, _, hst, hk, microStep_decrypt_of_le_nine ho hst hk h1 h9, fun h => absurd h (by omega),
      fun _ => ⟨rnd_sub_one h1, rfl⟩, fun h => absurd h (by omega)⟩
  · exact ⟨b, k, _, hst, hk, microStep_decrypt_of_zero ho hst hk h0, fun h => absurd h (by omega),
      fun h => absurd h (by omega), fun _ => rfl⟩

/-! The whole command. -/

/-- R138: the block transform of `c` under `rks` after its first `n` rounds, the start among them; round key `10 - n` is
the next. -/
def decRounds (rks : Schedule) (c : Block) : Nat → Block
  | 0 => c
  | 1 => decStart c (rks.get 10)
  | n + 2 => decRound (decRounds rks c (n + 1)) (rks.get (Fin.ofNat 11 (10 - (n + 1))))

/-- R138: the whole transform is the final whitening after the start and the nine rounds. -/
theorem decrypt_eq_decFinal (rks : Schedule) (c : Block) :
    decrypt rks c = decFinal (decRounds rks c 10) (rks.get 0) := rfl

/-- The state `n` micro-steps after the take of DECRYPT in `s`, which holds the schedule `rks`. -/
def decryptingState (s : State) (rks : Schedule) (n : Nat) : State :=
  nextRound (decRounds rks s.blockOperand n) (BitVec.ofNat 4 (10 - n)) (startBlock .decrypt s.blockOperand 10#4 s)

section
variable {s : State} {rks : Schedule} {n : Nat}

theorem decryptingState_rnd : (decryptingState s rks n).rnd.toNat = 10 - n :=
  (BitVec.toNat_ofNat (10 - n) 4).trans (Nat.mod_eq_of_lt (by omega))

variable (h : s.rks = holdSchedule rks)
include h

theorem decryptingState_roundKey :
    (decryptingState s rks n).roundKey (decryptingState s rks n).rnd.toNat = some (rks.get (Fin.ofNat 11 (10 - n))) := by
  rw [decryptingState_rnd]
  exact roundKey_ofNat_of_holdSchedule (s := decryptingState s rks n) h (Nat.sub_le 10 n)

/-- R142: a micro-step before the last takes ST one round further. -/
theorem microStep_decryptingState (hn : n < 10) :
    microStep (decryptingState s rks n) = .next (decryptingState s rks (n + 1)) := by
  have hrnd := decryptingState_rnd (s := s) (rks := rks) (n := n)
  have hkey := decryptingState_roundKey h (n := n)
  cases n with
  | zero => exact microStep_decrypt_of_ten rfl rfl hkey hrnd
  | succ n =>
    have hdown : BitVec.ofNat 4 (10 - (n + 1)) - 1#4 = BitVec.ofNat 4 (10 - (n + 2)) := by
      bv_omega
    rw [microStep_decrypt_of_le_nine rfl rfl hkey (by omega) (by omega)]
    exact congrArg (fun r => Host.Outcome.next (nextRound _ r _)) hdown

/-- R142: the last micro-step completes with the transform of the block in ST and DOUT. -/
theorem microStep_decryptingState_ten :
    microStep (decryptingState s rks 10) =
      .next (completeBlock (decrypt rks s.blockOperand) (decryptingState s rks 10)) := by
  rw [decrypt_eq_decFinal]
  exact microStep_decrypt_of_zero rfl rfl (decryptingState_roundKey h) decryptingState_rnd

/-- R142: up to the tenth, each micro-step takes ST one round further. -/
theorem microSteps_startBlock_decrypt (hn : n ≤ 10) :
    microSteps n (startBlock .decrypt s.blockOperand 10#4 s) = .next (decryptingState s rks n) := by
  induction n with
  | zero => rfl
  | succ n ih => exact (microSteps_add_one (ih (by omega))).trans (microStep_decryptingState h hn)

end

/-- Settles O16: by induction on the micro-steps, each one round of the transform; the eleventh completes it. -/
theorem decryptRunsToCompletion : Obligations.DecryptRunsToCompletion := by
  intro s rks hs hkv h
  refine ⟨_, _, exec_decrypt_of_ready hs hkv, rfl, fun n hn => ?_,
    (microSteps_add_one (microSteps_startBlock_decrypt h (Nat.le_refl 10))).trans (microStep_decryptingState_ten h), rfl⟩
  exact ⟨_, microSteps_startBlock_decrypt h (by omega), rfl, rfl⟩

/-! The round trip. -/

/-- R36: port dout shows the block that DOUT holds while STATUS.DOUT_VALID = 1. -/
theorem doutPort_of_hold {s : State} {b : Block} (hv : s.doutValid = true) (hd : s.dout = .hold b) :
    s.doutPort = .ok (packBlock b) := by
  rw [State.doutPort, if_pos hv, hd, value_hold]

/-- Settles O17: both commands run to completion under the same schedule, a block passes through a port unchanged, and
decryption inverts encryption. -/
theorem blockRoundTripThroughPorts : Obligations.BlockRoundTripThroughPorts := by
  intro s hi hs hkv
  obtain ⟨key, hrks⟩ := hi.key hkv
  obtain ⟨-, hrst⟩ := ready_iff.1 hs
  obtain ⟨t, u, hexec, -, -, hsteps, hu⟩ := encryptRunsToCompletion s _ hs hkv hrks
  have hready : u.ready = true := ready_iff.2 ⟨congrArg State.busy hu, (congrArg State.rst hu).trans hrst⟩
  refine ⟨t, u, _, hexec, hsteps, doutPort_of_hold (congrArg State.doutValid hu) (congrArg State.dout hu), ?_⟩
  obtain ⟨t', u', hexec', -, -, hsteps', rfl⟩ := decryptRunsToCompletion
    { u with din := packBlock (encrypt (expandKey key) (unpackBlock s.din)) } _ hready
    ((congrArg State.keyValid hu).trans hkv) ((congrArg State.rks hu).trans hrks)
  refine ⟨t', _, hexec', hsteps', (doutPort_of_hold rfl rfl).trans ?_⟩
  rw [unpackBlock_packBlock, decrypt_encrypt, packBlock_unpackBlock]

end Sys2Proof.Machine
end

section
/-!
SUPPORT. Rejections, and the reads that the spec leaves unspecified (spec/60_exceptions.md R150 to R157): what a rejected
command writes, that no event refuses, and which reads of ⊥ fault.
-/

namespace Sys2Proof.Machine

open Sys2Proof

/-! Rejections. -/

/-- R119, R141, R152: a ready core without a valid key rejects a block command. -/
theorem exec_block_of_no_key {s : State} {i : Instr} (hi : i = .encrypt ∨ i = .decrypt) (hs : s.ready = true)
    (hk : s.keyValid = false) : exec i s = .next (raiseError .noKey s) := by
  rcases hi with rfl | rfl <;> exact (whenReady_of_ready hs _).trans (by rw [if_neg (by simp [hk])])

/-- Settles O6: both block commands by the rejection without a key. -/
theorem blockCommandNeedsKey : Obligations.BlockCommandNeedsKey := fun _ hs hk =>
  ⟨exec_block_of_no_key (.inl rfl) hs hk, exec_block_of_no_key (.inr rfl) hs hk, rfl⟩

/-- R152: the take of `c` is rejected with `code`: `c` is reserved, or it is a block command and no key is valid. -/
def Rejected (s : State) (c : Byte) (code : ErrCode) : Prop :=
  decode c = .reserved ∧ code = .reservedCmd ∨
    (decode c = .command .encrypt ∨ decode c = .command .decrypt) ∧ s.keyValid = false ∧ code = .noKey

/-- R153: a ready core consumes a rejected command and raises its error. -/
theorem issueEvent_of_rejected {s : State} {code : ErrCode} (hs : s.ready = true) (h : Rejected s s.cmd code) :
    issueEvent s = .next (raiseError code (consumeCommand s)) := by
  have noKey : ∀ i, i = .encrypt ∨ i = .decrypt → decode s.cmd = .command i → s.keyValid = false →
      issueEvent s = .next (raiseError .noKey (consumeCommand s)) := fun i hi hd hk =>
    (issueEvent_command hs hd).trans (exec_block_of_no_key (s := consumeCommand s) hi hs hk)
  rcases h with ⟨hd, rfl⟩ | ⟨hd | hd, hk, rfl⟩
  · exact issueEvent_reserved hs hd
  · exact noKey _ (.inl rfl) hd hk
  · exact noKey _ (.inr rfl) hd hk

/-- Settles O5: the step is the rejection by a ready state with the same registers, whose command line is taken off. -/
theorem rejectionWritesErrAlone : Obligations.RejectionWritesErrAlone := by
  intro s c code hc hrej
  obtain ⟨u, hu, rfl, -, hready, hscript, hstep⟩ := step_of_takes hc
  rw [← hu.keyValid] at hrej
  exact ⟨_, hstep.trans (issueEvent_of_rejected hready hrej), hu.raiseError_consumeCommand code, rfl, hready, hscript⟩

/-! No event refuses. -/

/-- R53: an Issue event always answers: the take, or the command is held. -/
theorem issueEvent_answers (s : State) : ∃ t, issueEvent s = .next t := by
  by_cases hs : s.ready = true
  · obtain ⟨t, ht, -⟩ := issueEvent_of_ready hs
    exact ⟨t, ht⟩
  · exact ⟨s, if_neg hs⟩

theorem coreEvent_not_refused (s : State) (r : Refusal) : coreEvent s ≠ .refused r := by
  cases hb : s.busy with
  | true => exact coreEvent_of_busy hb ▸ microStep_not_refused s r
  | false =>
    cases hv : s.cmdValid with
    | true =>
      obtain ⟨t, ht⟩ := issueEvent_answers s
      simp [coreEvent_of_command hb hv, ht]
    | false => simp [coreEvent_of_quiet hb hv]

theorem runLine_not_refused (line : HostLine) (s : State) (r : Refusal) : runLine line s ≠ .refused r := by
  cases line with
  | issue c k d => exact coreEvent_not_refused _ r
  | offer c k d =>
    rw [runLine]
    split
    · exact coreEvent_not_refused _ r
    · exact coreEvent_not_refused _ r
  | wait =>
    rw [runLine]
    split
    · exact coreEvent_not_refused _ r
    · nofun
  | pass => exact coreEvent_not_refused s r
  | readStatus => nofun
  | readDout =>
    simp only [runLine]
    split <;> nofun
  | readRk r' =>
    simp only [runLine]
    split <;> nofun
  | reset => nofun

/-- Settles O31: a step is a reset, the core's event or a script line, and none of them refuses. -/
theorem stepNeverRefuses : Obligations.StepNeverRefuses := by
  intro s r
  cases hr : s.rst with
  | true => simp [step_of_rst hr]
  | false =>
    cases hv : s.cmdValid with
    | true => exact step_of_command hr hv ▸ coreEvent_not_refused s r
    | false =>
      cases hs : s.script with
      | nil => exact step_of_no_line hr hv hs ▸ coreEvent_not_refused s r
      | cons line rest => exact step_of_line hr hv hs ▸ runLine_not_refused line _ r

/-! Reads of ⊥. -/

/-- A rule that reads two registers faults when one of them holds ⊥. -/
theorem withValue_withValue_of_none {v w : Option Block} (k : Block → Block → Result) (h : v = none ∨ w = none) :
    withValue v (fun b => withValue w (k b)) = .fault .readsBottom := by
  rcases h with rfl | rfl
  · rfl
  · cases v with
    | none => rfl
    | some b => rfl

/-- R99, R157: EXPAND_KEY's micro-step reads RKS[RND-1]. -/
theorem microStep_expandKey_of_bottom {s : State} (ho : s.opL = some .expandKey) (h1 : 1 ≤ s.rnd.toNat)
    (h10 : s.rnd.toNat ≤ 10) (hk : s.roundKey (s.rnd.toNat - 1) = none) : microStep s = .fault .readsBottom := by
  simp [microStep, ho, microExpandKey, h1, h10, hk]

/-- R120, R142, R157: a block command's micro-step reads ST and RKS[RND]. -/
theorem microStep_block_of_bottom {s : State} (ho : s.BlockInFlight) (h10 : s.rnd.toNat ≤ 10)
    (h : s.st.value = none ∨ s.roundKey s.rnd.toNat = none) : microStep s = .fault .readsBottom := by
  rcases ho with ho | ho <;> rw [microStep, ho] <;> exact (if_pos h10).trans (withValue_withValue_of_none _ h)

/-- R36, R157: port dout over a register at ⊥, its valid bit 1. -/
theorem doutPort_of_bottom {s : State} (hv : s.doutValid = true) (hd : s.dout.value = none) :
    s.doutPort = .error .readsBottom := by
  rw [State.doutPort, if_pos hv, hd]

/-- RKS holds no schedule while one of its registers holds ⊥. -/
theorem schedule_of_bottom {s : State} {r : Fin 11} (h : (s.rks.get r).value = none) : s.schedule = none :=
  if_neg fun hw => by simp [BlockReg.value, hw r] at h

/-- R36, R157: port rk_out over a round key at ⊥, its valid bit 1. -/
theorem rkOutPort_of_bottom {s : State} {r : Fin 11} (hv : s.keyValid = true) (hk : (s.rks.get r).value = none) :
    s.rkOutPort = .error .readsBottom := by
  rw [State.rkOutPort, if_pos hv, schedule_of_bottom hk]

/-- A READ DOUT line stops with its port's fault. -/
theorem step_of_readDout_error {s : State} {f : Fault} (h : ReadsDoutNext s) (hp : s.doutPort = .error f) :
    step s = .fault f := by
  obtain ⟨hr, hcv, hs⟩ := h
  obtain ⟨rest, hs⟩ := List.head?_eq_some_iff.1 hs
  have hport : State.doutPort { s with script := rest } = .error f := hp
  rw [step_of_line hr hcv hs, runLine, hport]

/-- A READ RK line stops with its port's fault. -/
theorem step_of_readRk_error {s : State} {f : Fault} (h : ReadsRkNext s) (hp : s.rkOutPort = .error f) :
    step s = .fault f := by
  obtain ⟨hr, hcv, r, hs⟩ := h
  obtain ⟨rest, hs⟩ := List.head?_eq_some_iff.1 hs
  have hport : State.rkOutPort { s with script := rest } = .error f := hp
  rw [step_of_line hr hcv hs, runLine, hport]

/-- Settles O28: the invalid reads, a micro-step's reads of ⊥, and the ports over a register at ⊥. -/
theorem unspecifiedReadsFault : Obligations.UnspecifiedReadsFault :=
  ⟨fun _ => step_of_invalid_readDout, fun _ => step_of_invalid_readRk, fun _ => microStep_expandKey_of_bottom,
    fun _ => microStep_block_of_bottom, fun _ h hv hd => step_of_readDout_error h (doutPort_of_bottom hv hd),
    fun _ h hv ⟨_, hk⟩ => step_of_readRk_error h (rkOutPort_of_bottom hv hk)⟩

end Sys2Proof.Machine
end

section
/-!
SUPPORT. Reset and hazards (spec/70_reset_and_hazards.md R170 to R182): a command completes in its count of steps; a busy
core holds a presented command, issues nothing that its host drops and ignores its input ports; reset clears every
register.
-/

namespace Sys2Proof.Machine

open Sys2Proof

/-! The count of micro-steps. -/

/-- R180, R182: the take of a command that is not rejected leaves that command's count of micro-steps, whatever its
operands. -/
theorem exec_starts_count {i : Instr} {s : State} (hs : s.ready = true) (hi : i = .expandKey ∨ s.keyValid = true) :
    ∃ t, exec i s = .next t ∧ t.busy = true ∧ remaining t = microStepCount i := by
  cases i with
  | expandKey => exact ⟨_, exec_expandKey_of_ready hs, rfl, rfl⟩
  | encrypt => exact ⟨_, exec_encrypt_of_ready hs (hi.resolve_left nofun), rfl, rfl⟩
  | decrypt => exact ⟨_, exec_decrypt_of_ready hs (hi.resolve_left nofun), rfl, rfl⟩

/-- R180: as many micro-steps as are left all answer, and each uses up one. -/
theorem Inv.microSteps_answers {s : State} (hi : Inv s) {n : Nat} (hn : n ≤ remaining s) :
    ∃ t, microSteps n s = .next t ∧ Inv t ∧ n + remaining t = remaining s := by
  induction n generalizing s with
  | zero => exact ⟨s, rfl, hi, Nat.zero_add _⟩
  | succ n ih =>
    obtain ⟨u, hu⟩ := hi.microStep_answers (hi.busy_of_remaining (by omega))
    have hleft := microStep_remaining hu
    obtain ⟨t, ht, hit, hcount⟩ := ih (hi.of_microStep hu) (by omega)
    exact ⟨t, (microSteps_succ hu n).trans ht, hit, by omega⟩

/-- R180: the core is idle exactly when no micro-step is left. -/
theorem Inv.idle_iff_remaining_zero {s : State} (hi : Inv s) : s.busy = false ↔ remaining s = 0 := by
  refine ⟨fun hb => Nat.eq_zero_of_not_pos fun h => ?_, hi.idle_of_remaining_zero⟩
  exact Bool.false_ne_true (hb.symm.trans (hi.busy_of_remaining h))

/-- Settles O19: the count at the take, by the command; then an undisturbed run is micro-steps, each of which uses up
one. -/
theorem startedCommandCompletesInItsCount : Obligations.StartedCommandCompletesInItsCount := by
  refine ⟨fun _ _ => exec_starts_count, fun s n hi _ hu hn => ?_⟩
  obtain ⟨t, ht, hit, hcount⟩ := hi.microSteps_answers hn
  exact ⟨t, (run_eq_microSteps hi hu hn).trans ht, hcount, hit.idle_iff_remaining_zero.trans (by omega)⟩

/-! A command presented to a busy core. -/

theorem registers_presentCommand (c : Byte) (k d : Option (BitVec 128)) (s : State) :
    SameRegisters s (presentCommand c k d s) :=
  ⟨rfl, rfl, rfl, rfl, rfl, rfl, rfl, rfl, rfl⟩

theorem registers_consumeCommand (s : State) : SameRegisters s (consumeCommand s) :=
  ⟨rfl, rfl, rfl, rfl, rfl, rfl, rfl, rfl, rfl⟩

theorem SameRegisters.remaining {s u : State} (h : SameRegisters s u) : remaining u = remaining s := by
  simp [Machine.remaining, h.opL, h.rnd]

/-- A command line leaves its byte and its operands on the ports, and the script as it is. -/
theorem presentedWith_presentCommand (c : Byte) (k d : Option (BitVec 128)) (s : State) :
    PresentedWith c k d s.script (presentCommand c k d s) where
  cmdValid := rfl
  cmd := rfl
  keyIn v hv := by simp [hv]
  din v hv := by simp [hv]
  script := rfl

theorem PresentedWith.of_sameHost {c : Byte} {k d : Option (BitVec 128)} {rest : List HostLine} {s t : State}
    (h : PresentedWith c k d rest s) (hst : SameHost s t) : PresentedWith c k d rest t where
  cmdValid := hst.cmdValid.trans h.cmdValid
  cmd := hst.cmd.trans h.cmd
  keyIn v hv := hst.keyIn.trans (h.keyIn v hv)
  din v hv := hst.din.trans (h.din v hv)
  script := hst.script.trans h.script

/-- A busy core takes the same micro-step whatever the host has done to its ports and script, and leaves them alone. -/
theorem Inv.microStep_after_host {s u : State} (hi : Inv s) (hb : s.busy = true) (h : SameRegisters s u) :
    ∃ t t', microStep u = .next t ∧ microStep s = .next t' ∧ SameRegisters t' t ∧ SameHost u t := by
  obtain ⟨t', ht'⟩ := hi.microStep_answers hb
  obtain ⟨t, ht⟩ := (hi.of_sameRegisters h).microStep_answers (h.busy.trans hb)
  have hsame := microStep_congr h
  rw [ht, ht'] at hsame
  exact ⟨t, t', ht, ht', hsame, (microStep_host ht).1⟩

/-- R175: a presented command stays on the ports while the command in flight completes, and the step after that is its
take. -/
theorem Inv.run_holds_command {s : State} (hi : Inv s) (hr : s.rst = false) (hv : s.cmdValid = true) :
    ∃ t, Host.Core.run core (remaining s) s = .next t ∧ t.busy = false ∧ SameHost s t ∧ t.err = s.err ∧
      step t = issueEvent t ∧ TakesNext t s.cmd := by
  obtain ⟨t, hrun, -, hidle, hhost, hrst, herr⟩ := hi.run_to_completion fun u hu hur hub =>
    (step_of_command (hur.trans hr) (hu.cmdValid.trans hv)).trans (coreEvent_of_busy hub)
  have hrt : t.rst = false := hrst.trans hr
  have hvt : t.cmdValid = true := hhost.cmdValid.trans hv
  exact ⟨t, hrun, hidle, hhost, herr, (step_of_command hrt hvt).trans (coreEvent_of_command hidle hvt), hrt, hidle,
    by simp [presented, hvt, hhost.cmd]⟩

/-- Settles O21: a command on the port is held by the run to completion; a script's line is presented in its first step, and
held from there. -/
theorem commandHeldWhileBusy : Obligations.CommandHeldWhileBusy := by
  refine ⟨fun s hi _ hr hv => hi.run_holds_command hr hv, fun s c k d rest hi hb hr hv hs => ?_⟩
  have hregs := (registers_takeLine s rest).trans (registers_presentCommand c k d _)
  obtain ⟨t, t', ht, ht', hsame, hhost⟩ := hi.microStep_after_host hb hregs
  have hstep : step s = .next t := (step_of_held_line hr hb hv hs).trans ht
  have hpres : PresentedWith c k d rest t := (presentedWith_presentCommand c k d _).of_sameHost hhost
  refine ⟨⟨t, t', hstep, ht', hsame, hpres⟩, ?_⟩
  have hleft : remaining t + 1 = remaining s := hsame.remaining ▸ microStep_remaining ht'
  obtain ⟨u, hrun, hidle, hhost', herr, hissue, htakes⟩ :=
    (hi.of_step hstep).run_holds_command ((microStep_host ht).2.trans hr) hpres.cmdValid
  refine ⟨u, ?_, hidle, hpres.of_sameHost hhost', herr.trans (hsame.err.trans (microStep_err ht')), hissue,
    hpres.cmd ▸ htakes⟩
  rw [← hleft, run_succ hstep, hrun]

/-- R175: an offer to a busy core is a micro-step with no command presented. -/
theorem step_of_offer_busy {s : State} {c : Byte} {k d : Option (BitVec 128)} {rest : List HostLine} (hr : s.rst = false)
    (hb : s.busy = true) (hv : s.cmdValid = false) (hs : s.script = .offer c k d :: rest) :
    step s = microStep (consumeCommand (presentCommand c k d { s with script := rest })) := by
  rw [step_of_line hr hv hs, runLine, if_pos hb]
  exact coreEvent_of_busy hb

/-- Settles O22: the offer's step is the micro-step of a state with the same registers and no command presented. -/
theorem droppedCommandIssuesNothing : Obligations.DroppedCommandIssuesNothing := by
  intro s c k d rest hi hr hb hv hs
  have hregs := ((registers_takeLine s rest).trans (registers_presentCommand c k d _)).trans (registers_consumeCommand _)
  obtain ⟨t, t', ht, ht', hsame, hhost⟩ := hi.microStep_after_host hb hregs
  exact ⟨t, t', (step_of_offer_busy hr hb hv hs).trans ht, ht', hsame, hhost.cmdValid, hhost.script⟩

/-! The input ports of a busy core. -/

/-- Two changes that leave the registers alone keep them the same. -/
theorem SameRegisters.congr {s u s' u' : State} (h : SameRegisters s u) (hs : SameRegisters s s')
    (hu : SameRegisters u u') : SameRegisters s' u' :=
  hs.symm.trans (h.trans hu)

/-- A Reset event answers the same registers from any two states. -/
theorem registers_resetEvent (s u : State) : SameRegisters (resetEvent s) (resetEvent u) :=
  ⟨rfl, rfl, rfl, rfl, rfl, rfl, rfl, rfl, rfl⟩

theorem SameRegisters.doutPort {s u : State} (h : SameRegisters s u) : u.doutPort = s.doutPort := by
  simp [State.doutPort, h.doutValid, h.dout]

theorem SameRegisters.rkOutPort {s u : State} (h : SameRegisters s u) : u.rkOutPort = s.rkOutPort := by
  simp [State.rkOutPort, State.schedule, h.keyValid, h.rks]

/-- The event of a busy core is its micro-step, which reads the registers alone. -/
theorem coreEvent_congr_of_busy {s u : State} (h : SameRegisters s u) (hb : s.busy = true) :
    SameAnswer (coreEvent s) (coreEvent u) := by
  rw [coreEvent_of_busy hb, coreEvent_of_busy (h.busy.trans hb)]
  exact microStep_congr h

/-- A script's line that meets a busy core answers by the registers alone. -/
theorem runLine_congr_of_busy {s u : State} (h : SameRegisters s u) (hb : s.busy = true) (line : HostLine) :
    SameAnswer (runLine line s) (runLine line u) := by
  have hbu : u.busy = true := h.busy.trans hb
  have present : ∀ c k d, SameRegisters (presentCommand c k d s) (presentCommand c k d u) := fun c k d =>
    h.congr (registers_presentCommand c k d s) (registers_presentCommand c k d u)
  have read : ∀ v w, SameRegisters (recordRead v s) (recordRead w u) := fun v w =>
    h.congr ((SameRegisters.refl s).recordRead v) ((SameRegisters.refl u).recordRead w)
  cases line with
  | issue c k d => exact coreEvent_congr_of_busy (present c k d) hb
  | offer c k d =>
    rw [runLine, runLine, if_pos hb, if_pos hbu]
    exact coreEvent_congr_of_busy ((present c k d).congr (registers_consumeCommand _) (registers_consumeCommand _)) hb
  | wait =>
    rw [runLine, runLine, if_pos hb, if_pos hbu]
    exact coreEvent_congr_of_busy (h.congr (registers_takeLine s _) (registers_takeLine u _)) hb
  | pass => exact coreEvent_congr_of_busy h hb
  | readStatus => exact read _ _
  | readDout =>
    rw [runLine, runLine, h.doutPort]
    cases s.doutPort with
    | ok v => exact read _ _
    | error f => rfl
  | readRk r =>
    rw [runLine, runLine, h.rkOutPort]
    cases s.rkOutPort with
    | ok v => exact read _ _
    | error f => rfl
  | reset => exact registers_resetEvent s u

/-- The step of a busy core that has no script line is its micro-step, whether a command is presented or not. -/
theorem step_of_busy_no_line {s : State} (hr : s.rst = false) (hb : s.busy = true) (hs : s.script = []) :
    step s = microStep s := by
  cases hv : s.cmdValid with
  | true => exact (step_of_command hr hv).trans (coreEvent_of_busy hb)
  | false => exact (step_of_no_line hr hv hs).trans (coreEvent_of_busy hb)

/-- R176: the step of a busy core answers by its registers, rst, the script, and whether the host reads the script's next
line. -/
theorem step_congr_of_busy {s u : State} (h : SameRegisters s u) (hb : s.busy = true) (hrst : u.rst = s.rst)
    (hscript : u.script = s.script) (hline : s.script = [] ∨ u.cmdValid = s.cmdValid) :
    SameAnswer (step s) (step u) := by
  cases hr : s.rst with
  | true =>
    rw [step_of_rst hr, step_of_rst (hrst.trans hr)]
    exact registers_resetEvent s u
  | false =>
    have hru : u.rst = false := hrst.trans hr
    cases hs : s.script with
    | nil =>
      rw [step_of_busy_no_line hr hb hs, step_of_busy_no_line hru (h.busy.trans hb) (hscript.trans hs)]
      exact microStep_congr h
    | cons line rest =>
      have hvu : u.cmdValid = s.cmdValid := hline.resolve_left (by simp [hs])
      cases hv : s.cmdValid with
      | true =>
        rw [step_of_command hr hv, step_of_command hru (hvu.trans hv)]
        exact coreEvent_congr_of_busy h hb
      | false =>
        rw [step_of_line hr hv hs, step_of_line hru (hvu.trans hv) (hscript.trans hs)]
        exact runLine_congr_of_busy (h.congr (registers_takeLine s rest) (registers_takeLine u rest)) hb line

/-- Settles O35: a change of the input ports leaves the registers, rst and the script alone. -/
theorem busyCoreIgnoresInputPorts : Obligations.BusyCoreIgnoresInputPorts := fun s v c k d hb hline =>
  step_congr_of_busy (u := { s with cmdValid := v, cmd := c, keyIn := k, din := d })
    ⟨rfl, rfl, rfl, rfl, rfl, rfl, rfl, rfl, rfl⟩ hb rfl rfl hline

/-! Reset. -/

/-- R170: port status after a Reset event is that of the state after reset. -/
theorem resetEvent_statusPort (s : State) : (resetEvent s).statusPort = 0x00#8 := by
  simp [State.statusPort, bitByte, ErrCode.code]

/-- Settles O25: the step is a Reset event, whose registers are those of R38. -/
theorem resetEventClearsCore : Obligations.ResetEventClearsCore := by
  intro s h
  obtain ⟨u, -, hs⟩ := step_of_resets h
  exact ⟨resetEvent u, hs, resetEvent_statusPort u, rfl, rfl, rfl, rfl, rfl, rfl, resetEvent_rks_written u⟩

end Sys2Proof.Machine
end
